-- ==== Sys2Proof/Word.lean ====
section
/-! DEFINITION. The word types of the block (00_scope.md rule R10, 10_state.md rule R20). -/

namespace Sys2Proof

/-- A byte: one element of FIFO storage, of a burst, or of a transport write (R10). -/
abbrev Byte := BitVec 8

/-- A 16-bit quantity: a command word CW (R80), a "word" of the byte stream (R15), an index or the count (R25). -/
abbrev Half := BitVec 16

/-- A 32-bit quantity: ARG, an element of VALUES, VAL of a response, STATUS or CONFIG (R20, R30, R31, R90). -/
abbrev Word := BitVec 32

end Sys2Proof
end

