-- ==== Sys2Proof/Syntax.lean ====
section
/-! DEFINITION. The fifteen commands (30_encoding.md rule R84), the ports and the agents that present them
(R83, 60_exceptions.md R232), and one move of an agent. -/

namespace Sys2Proof

/-- The three command ports (30_encoding.md R83). -/
inductive Port where
  | rx
  | own
  | app
  deriving DecidableEq, Repr, Inhabited

/-- The five command formats (30_encoding.md R81). -/
inductive Format where
  | n
  | b
  | v
  | a
  | l
  deriving DecidableEq, Repr, Inhabited

/-- One constructor per row of spec/opcode_table.json, holding the operands that stand in the command word
(R82). ARG, BURST and VALUES are presented beside the word (R89) and stand in `Cmd`. -/
inductive Instr where
  /-- PUSH, format B: `d` is CW[7:0] (40_fifo_ops.md R115). -/
  | push (d : Byte)
  /-- PUSHM, format V: `n` is CW[11:0], the burst length 0..4095 (R116). -/
  | pushm (n : Nat)
  /-- POP, format N (R117). -/
  | pop
  /-- FCLOSE, format N (R122). -/
  | fclose
  /-- CONNECT, format N (41_link_control.md R141). -/
  | connect
  /-- CLOSE, format N (R154). -/
  | close
  /-- CANCEL, format N (R158). -/
  | cancel
  /-- RDS8, format N (42_typed_read.md R181). -/
  | rds8
  /-- RDU8, format N (R182). -/
  | rdu8
  /-- RDS16, format N (R183). -/
  | rds16
  /-- RDU16, format N (R184). -/
  | rdu16
  /-- WRB, format A (43_typed_write.md R201). -/
  | wrb
  /-- WRBS, format L: `len` is CW[4:0], 0..31 (R202). -/
  | wrbs (len : Nat)
  /-- WRS16, format A (R203). -/
  | wrs16
  /-- WRU16, format A (R204). -/
  | wru16
  deriving DecidableEq, Repr, Inhabited

/-- The port that carries the command (R83, R84). -/
def Instr.port : Instr → Port
  | .push _ => .rx
  | .pushm _ => .rx
  | .pop => .own
  | .fclose => .own
  | .connect => .app
  | .close => .app
  | .cancel => .app
  | .rds8 => .app
  | .rdu8 => .app
  | .rds16 => .app
  | .rdu16 => .app
  | .wrb => .app
  | .wrbs _ => .app
  | .wrs16 => .app
  | .wru16 => .app

/-- The format of the command word (R81, R84). -/
def Instr.format : Instr → Format
  | .push _ => .b
  | .pushm _ => .v
  | .pop => .n
  | .fclose => .n
  | .connect => .n
  | .close => .n
  | .cancel => .n
  | .rds8 => .n
  | .rdu8 => .n
  | .rds16 => .n
  | .rdu16 => .n
  | .wrb => .a
  | .wrbs _ => .l
  | .wrs16 => .a
  | .wru16 => .a

/-- An agent that presents commands and receives responses (60_exceptions.md R232; OWN is the issuer at the OWN
port, R83). SEQ and TMR present no commands. -/
inductive Issuer where
  | rx
  | own
  | app (k : Nat)
  | host
  deriving DecidableEq, Repr, Inhabited

/-- The port an agent's commands are presented at (R83; HOST issues CLOSE and CANCEL at the APP port). -/
def Issuer.port : Issuer → Port
  | .rx => .rx
  | .own => .own
  | .app _ => .app
  | .host => .app

/-- HOST's answer to one transport write call (00_scope.md R12, 43_typed_write.md R205): all bytes reached the
wire, or the call failed after some of them. -/
inductive WriteDraw where
  | ok
  | fail (k : Nat)
  deriving DecidableEq, Repr, Inhabited

/-- A command as presented at a port in its issue step: the word and its operands outside the word
(10_state.md R20, R89), and the draw HOST would answer to a transport write this command makes (R236). -/
structure Cmd where
  agent : Issuer
  cw : Half
  arg : Word
  burst : List Byte
  values : List Word
  draw : WriteDraw
  deriving DecidableEq, Repr, Inhabited

/-- One atomic step of one agent (60_exceptions.md R232), with the HOST draws it would use. -/
inductive Move where
  /-- RX, OWN, APP_k or HOST presents a command. -/
  | issue (c : Cmd)
  /-- RX: the next push1 micro-step (40_fifo_ops.md R111). -/
  | rxStep
  /-- OWN: the stand-alone consumer's held POP (R120). -/
  | ownStep
  /-- APP_k: the next pop step of the typed read in flight (42_typed_read.md R180). -/
  | readStep
  /-- APP_k: completion of the held CONNECT (41_link_control.md R143). -/
  | connDone
  /-- SEQ: the phase step (R145 to R150), with HOST's answers to `open` and to a write. -/
  | seqStep (openOk : Bool) (write : WriteDraw)
  /-- SEQ: the cancel step (R159). -/
  | cancelStep
  /-- TMR: the end of the armed delay (R148, R153). -/
  | tmrStep
  deriving DecidableEq, Repr, Inhabited

end Sys2Proof
end

