-- ==== Sys2Proof/Config.lean ====
section
/-! DEFINITION. The parameters of the block with its named protocol constants (00_scope.md rule R6), and the free
values the model leaves open. -/

namespace Sys2Proof

/-- What a push does at a full FIFO (00_scope.md R8). Overwriting is not a legal policy. -/
inductive Policy where
  | block
  | drop
  deriving DecidableEq, Repr, Inhabited

/-- The parameters, fixed at reset (00_scope.md R6 to R8, 70_reset_and_hazards.md R260). They stand in `State.cfg`
and no step writes them. The named constants are fields whose defaults are the values of R6 (R18, D35 of
92_eei_decisions.md, I1 of 93_implementation_defined.md); MAX_CMD and MAX_ATTEMPTS have the widths of their CONFIG
fields (10_state.md R31; DEDUCED, log 25). -/
structure Params where
  /-- FIFO_DEPTH, the capacity C: OPEN. -/
  depth : Half
  /-- OVERFLOW_POLICY. -/
  policy : Policy
  /-- N_APP, the number of application agents: OPEN. -/
  nApp : Nat
  /-- BAUD, the transport bit rate: OPEN, read by no rule but the call of the transport's `open` (R145). -/
  baud : Nat
  /-- START_OP, the start command byte. -/
  startOp : Byte := 0x80#8
  /-- QUERY_OP, the sensor/mode query command byte. -/
  queryOp : Byte := 0x8E#8
  /-- MODE_PKT, the "operating mode" sensor id. -/
  modePkt : Byte := 0x23#8
  /-- PASSIVE, the expected passive-mode value. -/
  passive : Byte := 0x01#8
  /-- MAX_CMD, the most bytes of one writeBytes. -/
  maxCmd : BitVec 5 := 26#5
  /-- MAX_ATTEMPTS, the number of outer connection attempts. -/
  maxAttempts : BitVec 2 := 2#2
  /-- SCRATCH_SIZE, the bytes of the encoding scratch area. -/
  scratchSize : Nat := 26
  /-- POLL_DELAY_MS, informative: no step reads it (R6, R274; log 17). -/
  pollDelayMs : Nat := 100
  /-- COOLDOWN_MS, informative: no step reads it (R6, R274; log 17). -/
  cooldownMs : Nat := 2500
  /-- The model's own: the FIFO is used stand-alone, with an outside consumer at the OWN port and no Link
  Controller traffic (30_encoding.md R83). DESIGN CHOICE, log 5. -/
  standalone : Bool
  deriving DecidableEq, Repr, Inhabited

/-- The reference instance used by `State.reset`: the named constants at R6's defaults; C = 4 and N_APP = 2 as in
the vectors of 95_test_vectors.md, BLOCK, the reference policy of R6, and an arbitrary BAUD. DESIGN CHOICE, unsafe for
a claim about `State.reset` alone (log 3, log 4); statements hold for every `Params`. -/
def Config.referenceParams : Params :=
  { depth := 4#16, policy := .block, nApp := 2, baud := 57600, standalone := false }

/-- Which move comes next where nothing is scheduled: a free value for each tick (20_memory.md R60, "any
interleaving of enabled steps may occur"). Safe: log 2. -/
opaque Config.freeMove : Nat → Move

end Sys2Proof
end

