-- ==== Sys2Proof/WellFormed.lean ====
section
/-! DEFINITION. What a well-formed command, presentation and parameter set are. -/

namespace Sys2Proof

/-- The operands of a command word fit their fields (30_encoding.md R82: N is 0..4095, LEN is 0..31). -/
def Instr.wf : Instr → Bool
  | .pushm n => decide (n < 4096)
  | .wrbs len => decide (len < 32)
  | .push _ => true
  | .pop => true
  | .fclose => true
  | .connect => true
  | .close => true
  | .cancel => true
  | .rds8 => true
  | .rdu8 => true
  | .rds16 => true
  | .rdu16 => true
  | .wrb => true
  | .wrs16 => true
  | .wru16 => true

/-- The agent may present commands at the port that carries `i` (30_encoding.md R83: RX pushes, OWN pops and
closes the FIFO, APP agents the rest, HOST only CLOSE and CANCEL). -/
def Instr.issuerOk (i : Instr) : Issuer → Bool
  | .rx => i.port == .rx
  | .own => i.port == .own
  | .app _ => i.port == .app
  | .host => i == .close || i == .cancel

/-- The side-band operands have the length the command word names (R82: |BURST| must equal N). A mismatch is
REFUSED by PUSHM (R116), not an encoding error (R86). -/
def Instr.sidebandOk (i : Instr) (c : Cmd) : Bool :=
  match i with
  | .pushm n => c.burst.length == n
  | _ => true

/-- The parameters are legal: 1 <= C <= 65535 and N_APP >= 1 (00_scope.md R6), at least one connection attempt
(R152 counts up to MAX_ATTEMPTS from 1), and a scratch area that holds the largest single write, MAX_CMD bytes or the
two bytes of a word (D30 of 92_eei_decisions.md). The last two are DEDUCED, log 25. -/
def Params.wf (p : Params) : Bool :=
  p.depth != 0 && p.nApp != 0 && p.maxAttempts != 0 && decide (p.maxCmd.toNat ≤ p.scratchSize) &&
    decide (2 ≤ p.scratchSize)

end Sys2Proof
end

