-- ==== Sys2Proof/Decode.lean ====
section
/-! DEFINITION. The command encoding: the opcode map (30_encoding.md rule R84), decoding (R85, R86) and encoding
(R81, R82). -/

namespace Sys2Proof

/-- Why a command word is illegal at a port (30_encoding.md R86). -/
inductive IllegalReason where
  /-- OP = 0x0. -/
  | reservedOpcode
  /-- The opcode belongs to another port. -/
  | wrongPort
  /-- A reserved field of the format is not zero. -/
  | reservedBits
  deriving DecidableEq, Repr

/-- The result of decoding one word at one port: every word has exactly one (R85). -/
inductive Decoded where
  | command (i : Instr)
  | illegal (why : IllegalReason)
  deriving DecidableEq, Repr

/-- One row of the opcode map (R84): a word `w` selects the row iff `w &&& mask = mtch`; `operands` assembles the
operands of R82. -/
structure Row where
  port : Port
  mtch : Half
  mask : Half
  operands : Half → Instr

/-- OP = CW[15:12] (R80). -/
def opField (w : Half) : BitVec 4 := w.extractLsb' 12 4

/-- D = CW[7:0] (R82). -/
def dField (w : Half) : Byte := w.extractLsb' 0 8

/-- N = zext(CW[11:0]) (R82). -/
def nField (w : Half) : Nat := (w.extractLsb' 0 12).toNat

/-- LEN = zext(CW[4:0]) (R82). -/
def lenField (w : Half) : Nat := (w.extractLsb' 0 5).toNat

/-- The row of the opcode map with the given OP, in the order of R84; none for the reserved OP 0x0. -/
def rowOf (op : BitVec 4) : Option Row :=
  match op.toNat with
  | 0x1 => some ⟨.rx, 0x1000#16, 0xFF00#16, fun w => .push (dField w)⟩
  | 0x2 => some ⟨.rx, 0x2000#16, 0xF000#16, fun w => .pushm (nField w)⟩
  | 0x3 => some ⟨.own, 0x3000#16, 0xFFFF#16, fun _ => .pop⟩
  | 0x4 => some ⟨.own, 0x4000#16, 0xFFFF#16, fun _ => .fclose⟩
  | 0x5 => some ⟨.app, 0x5000#16, 0xFFFF#16, fun _ => .connect⟩
  | 0x6 => some ⟨.app, 0x6000#16, 0xFFFF#16, fun _ => .close⟩
  | 0x7 => some ⟨.app, 0x7000#16, 0xFFFF#16, fun _ => .cancel⟩
  | 0x8 => some ⟨.app, 0x8000#16, 0xFFFF#16, fun _ => .rds8⟩
  | 0x9 => some ⟨.app, 0x9000#16, 0xFFFF#16, fun _ => .rdu8⟩
  | 0xA => some ⟨.app, 0xA000#16, 0xFFFF#16, fun _ => .rds16⟩
  | 0xB => some ⟨.app, 0xB000#16, 0xFFFF#16, fun _ => .rdu16⟩
  | 0xC => some ⟨.app, 0xC000#16, 0xFFFF#16, fun _ => .wrb⟩
  | 0xD => some ⟨.app, 0xD000#16, 0xFFE0#16, fun w => .wrbs (lenField w)⟩
  | 0xE => some ⟨.app, 0xE000#16, 0xFFFF#16, fun _ => .wrs16⟩
  | 0xF => some ⟨.app, 0xF000#16, 0xFFFF#16, fun _ => .wru16⟩
  | _ => none

/-- Decoding, total on every word at every port, with the checks in the order of R85. -/
def decode (p : Port) (w : Half) : Decoded :=
  match rowOf (opField w) with
  | none => .illegal .reservedOpcode
  | some r =>
    if p ≠ r.port then .illegal .wrongPort
    else if w &&& r.mask ≠ r.mtch then .illegal .reservedBits
    else .command (r.operands w)

/-- The command word of a command, field by field from the bit patterns of R81 and the opcodes of R84. -/
def encode : Instr → Half
  | .push d => 0x1#4 ++ 0x0#4 ++ d
  | .pushm n => 0x2#4 ++ BitVec.ofNat 12 n
  | .pop => 0x3#4 ++ 0x000#12
  | .fclose => 0x4#4 ++ 0x000#12
  | .connect => 0x5#4 ++ 0x000#12
  | .close => 0x6#4 ++ 0x000#12
  | .cancel => 0x7#4 ++ 0x000#12
  | .rds8 => 0x8#4 ++ 0x000#12
  | .rdu8 => 0x9#4 ++ 0x000#12
  | .rds16 => 0xA#4 ++ 0x000#12
  | .rdu16 => 0xB#4 ++ 0x000#12
  | .wrb => 0xC#4 ++ 0x000#12
  | .wrbs len => 0xD#4 ++ 0x00#7 ++ BitVec.ofNat 5 len
  | .wrs16 => 0xE#4 ++ 0x000#12
  | .wru16 => 0xF#4 ++ 0x000#12

/-- The port that carries the opcode of a word (R84). The reserved OP 0x0 has none; APP stands for it, where the
word is as illegal as anywhere (R86). -/
def homePort (w : Half) : Port :=
  match rowOf (opField w) with
  | none => .app
  | some r => r.port

/-- The instruction the decoder reads from the word `w` of `nbits` bits, presented at the port that carries its
opcode (log 20). A command is one 16-bit word (R88). -/
def decodeTableWord (nbits w : Nat) : Option Instr :=
  if nbits ≤ 16 ∧ w < 2 ^ 16 then
    match decode (homePort (BitVec.ofNat 16 w)) (BitVec.ofNat 16 w) with
    | .command i => some i
    | .illegal _ => none
  else none

end Sys2Proof
end

