-- ==== Sys2Proof/Machine/State.lean ====
section
/-! DEFINITION. The state of the block (10_state.md), the reasons a step can stop, and the state after reset
(70_reset_and_hazards.md rule R260). -/

namespace Sys2Proof.Machine

/-- FIFO storage `mem` (10_state.md R24): the bytes written so far, by index. An index that is not listed holds
no value. The canonical form is `Memory.wf`. -/
abbrev Memory := List Host.Cell

/-- The sequencer's control point (10_state.md R21). -/
inductive Phase where
  | idle
  | openPort
  | sendStart
  | sendQuery
  | delay
  | readMode
  | cooldown
  deriving DecidableEq, Repr

/-- The Link Controller state (10_state.md R22). -/
inductive LinkState where
  | unopened
  | opening
  | handshaking
  | ready
  | closed
  deriving DecidableEq, Repr

/-- Why a connect failed: the cause code of a CONNECTION_FAILED response (30_encoding.md R92). -/
inductive Cause where
  | attemptsExhausted
  | cancelled
  | closed
  deriving DecidableEq, Repr

/-- The status of a response (30_encoding.md R91); only CONNECTION_FAILED carries a cause (R92). -/
inductive Status where
  | ok
  | transportOpen
  | connectionFailed (cause : Cause)
  | channelClosed
  | invalidArgument
  | transportIo
  | illegalCommand
  | overflow
  deriving DecidableEq, Repr

/-- A response: its status (ST and CA) and VAL (30_encoding.md R90). -/
structure Rsp where
  st : Status
  val : Word
  deriving DecidableEq, Repr

/-- The kind of a typed read in flight (10_state.md R32). -/
inductive ReadKind where
  | s8
  | u8
  | s16
  | u16
  deriving DecidableEq, Repr

/-- The read port's in-flight record (10_state.md R32): the issuing agent, the kind, and the high byte a 16-bit
read has already popped. -/
structure ReadRec where
  agent : Issuer
  kind : ReadKind
  hi : Option Byte
  deriving DecidableEq, Repr

/-- The worst outcome of a burst so far (10_state.md R33). -/
inductive RxStatus where
  | ok
  | overflow
  | channelClosed
  deriving DecidableEq, Repr

/-- The producer's in-flight record (10_state.md R33): the bytes not yet pushed, the number accepted, and the
worst outcome so far. -/
structure RxRec where
  rem : List Byte
  acc : Nat
  st : RxStatus
  deriving DecidableEq, Repr

/-- Which delay the timer is armed for (10_state.md R37). -/
inductive TmrKind where
  | poll
  | cooldown
  deriving DecidableEq, Repr

/-- A transport event (10_state.md R35). In `write bs k` the first `k` bytes of `bs` reached the wire. -/
inductive TEvent where
  | opened (ok : Bool)
  | write (bs : List Byte) (k : Nat)
  | flush
  | close
  deriving DecidableEq, Repr

/-- Why a step stops with a fault. Both are the model's own and safe: they stop where the spec gives no
behaviour, and no state that meets the FIFO invariant of 10_state.md R26 reaches them (log 8). -/
inductive Fault where
  /-- Raised by `State.memRead` and `State.memWrite`: the index is outside 0..C-1 (00_scope.md R12). Safe. -/
  | storageIndex
  /-- Raised by `State.memRead`: nothing has written this storage byte (10_state.md R24, "no value"). Safe. -/
  | storageUnwritten
  deriving DecidableEq, Repr

/-- Why the model gives an instruction no meaning. Every instruction of the table has one, so no step of this
model answers with it; a command the SPEC calls REFUSED sets `State.refused` and goes on (00_scope.md R12). -/
inductive Refusal where
  /-- Raised by an arm of `exec` whose instruction has no meaning yet: no arm is left. Safe. -/
  | notModelled (mnemonic : String)
  deriving DecidableEq, Repr

/-- The whole state of the block, as plain data. -/
structure State where
  /-- The parameters, the named constants and the stand-alone flag, fixed at reset (00_scope.md R6 to R8, R18). -/
  cfg : Params
  /-- The DEBUG input (10_state.md R29). -/
  debug : Bool
  /-- FIFO storage (R24). -/
  mem : Memory
  /-- Index of the oldest byte (R25). -/
  head : Half
  /-- Index the next accepted byte goes to (R25). -/
  tail : Half
  /-- Occupied count (R25). -/
  count : Half
  /-- The FIFO's closed mark (R27). -/
  fclosed : Bool
  /-- The sticky overflow signal (R28). -/
  ovf : Bool
  /-- The sequencer's control point (R21). -/
  phase : Phase
  /-- The Link Controller state (R22). -/
  link : LinkState
  /-- Transport handle present (R29). -/
  handle : Bool
  /-- Number of the current outer attempt (R29). -/
  attempt : BitVec 2
  /-- Mode queries sent in the current attempt, unbounded (R29). -/
  polls : Nat
  /-- A cancellation request is pending (R29). -/
  cancelReq : Bool
  /-- The APP agent held in CONNECT (R29). -/
  connCaller : Option Issuer
  /-- The result posted for the held CONNECT (R29). -/
  connResult : Option Rsp
  /-- The encoding area of SCRATCH_SIZE bytes, never observable (R29, log 9). -/
  scratch : List Byte
  /-- The typed read in flight (R32). -/
  rd : Option ReadRec
  /-- The burst in flight (R33). -/
  rx : Option RxRec
  /-- The transport event history (R35). -/
  tev : List TEvent
  /-- The refusal mark (R36). -/
  refused : Bool
  /-- The timer record (R37). -/
  tmr : Option TmrKind
  /-- The operand carriers of the command being presented (R20, log 11). -/
  cur : Cmd
  /-- The responses delivered so far, oldest first, each with the agent that got it (R20, R90, log 12). -/
  rsps : List (Issuer × Rsp)
  /-- The bytes RX has presented so far: the transport in-stream (20_memory.md R50, log 13). -/
  instream : List Byte
  /-- Model's own: the sequence A of 20_memory.md R61 (log 13). -/
  accepted : List Byte
  /-- Model's own: the sequence P of 20_memory.md R61 (log 13). -/
  popped : List Byte
  /-- Model's own: the POP the stand-alone consumer holds (40_fifo_ops.md R120, log 5). -/
  ownPop : Option Issuer
  /-- Model's own: the moves to come, the next one first (log 1). -/
  sched : List Move
  /-- Model's own: which free move is next once `sched` is used up (log 2). -/
  tick : Nat
  deriving DecidableEq, Repr

/-- The operand carriers before any command: no spec value exists (10_state.md R20; DESIGN CHOICE, log 11). -/
def noCmd : Cmd :=
  { agent := .host, cw := 0#16, arg := 0#32, burst := [], values := [], draw := .ok }

/-- The state after reset under the given parameters and DEBUG input (70_reset_and_hazards.md R260). -/
def State.resetWith (p : Params) (debug : Bool) : State :=
  { cfg := p
    debug := debug
    mem := []
    head := 0#16
    tail := 0#16
    count := 0#16
    fclosed := false
    ovf := false
    phase := .idle
    link := .unopened
    handle := false
    attempt := 0#2
    polls := 0
    cancelReq := false
    connCaller := none
    connResult := none
    scratch := List.replicate p.scratchSize 0#8
    rd := none
    rx := none
    tev := []
    refused := false
    tmr := none
    cur := noCmd
    rsps := []
    instream := []
    accepted := []
    popped := []
    ownPop := none
    sched := []
    tick := 0 }

/-- The state after reset of the reference instance (R260; parameters DESIGN CHOICE, log 3). -/
def State.reset : State := State.resetWith Config.referenceParams false

end Sys2Proof.Machine
end

