-- ==== Sys2Proof/Machine/Flags.lean ====
section
/-! DEFINITION. The condition bits, the STATUS and CONFIG output words (10_state.md rules R30, R31, R38), and the
packed response (30_encoding.md rule R90). -/

namespace Sys2Proof.Machine

/-- EMPTY: 1 iff `count` = 0 (10_state.md R30). -/
def State.empty (s : State) : Bool := s.count == 0#16

/-- FULL: 1 iff `count` = C (R30). -/
def State.full (s : State) : Bool := s.count == s.cfg.depth

/-- OVF as read: hardwired 0 under BLOCK (R28). -/
def State.ovfBit (s : State) : Bool := s.cfg.policy == .drop && s.ovf

/-- RD_BUSY: 1 iff a typed read is in flight (R30). -/
def State.rdBusy (s : State) : Bool := s.rd.isSome

/-- The encoding of `phase` (R21). -/
def Phase.code : Phase → BitVec 3
  | .idle => 0
  | .openPort => 1
  | .sendStart => 2
  | .sendQuery => 3
  | .delay => 4
  | .readMode => 5
  | .cooldown => 6

/-- The encoding of `link` (R22). -/
def LinkState.code : LinkState → BitVec 3
  | .unopened => 0
  | .opening => 1
  | .handshaking => 2
  | .ready => 3
  | .closed => 4

/-- The encoding of the policy in CONFIG[16] (R31). -/
def policyCode : Policy → BitVec 1
  | .block => 0
  | .drop => 1

/-- STATUS[31:0], fields from bit 31 down to bit 0 (R30). Reading it changes nothing. -/
def State.statusWord (s : State) : Word :=
  s.count ++ BitVec.ofBool s.rdBusy ++ s.attempt ++ BitVec.ofBool s.handle ++ BitVec.ofBool s.cancelReq ++
    BitVec.ofBool s.debug ++ s.phase.code ++ s.link.code ++ BitVec.ofBool s.ovfBit ++ BitVec.ofBool s.fclosed ++
    BitVec.ofBool s.full ++ BitVec.ofBool s.empty

/-- CONFIG[31:0], constant from reset (R31). -/
def State.configWord (s : State) : Word :=
  0#8 ++ s.cfg.maxAttempts ++ s.cfg.maxCmd ++ policyCode s.cfg.policy ++ s.cfg.depth

/-- CA of a CONNECTION_FAILED response (30_encoding.md R92). -/
def Cause.code : Cause → BitVec 4
  | .attemptsExhausted => 0
  | .cancelled => 1
  | .closed => 2

/-- ST (R91). -/
def Status.stCode : Status → BitVec 4
  | .ok => 0
  | .transportOpen => 1
  | .connectionFailed _ => 2
  | .channelClosed => 3
  | .invalidArgument => 4
  | .transportIo => 5
  | .illegalCommand => 6
  | .overflow => 7

/-- CA: 0 unless ST = CONNECTION_FAILED (R92). -/
def Status.caCode : Status → BitVec 4
  | .connectionFailed c => c.code
  | .ok => 0
  | .transportOpen => 0
  | .channelClosed => 0
  | .invalidArgument => 0
  | .transportIo => 0
  | .illegalCommand => 0
  | .overflow => 0

/-- The response packed into 40 bits: ST, CA, VAL from the high end (R90). -/
def Rsp.pack (r : Rsp) : BitVec 40 := r.st.stCode ++ r.st.caCode ++ r.val

/-- The status a burst's worst outcome is reported with (10_state.md R33, 40_fifo_ops.md R116). -/
def RxStatus.toStatus : RxStatus → Status
  | .ok => .ok
  | .overflow => .overflow
  | .channelClosed => .channelClosed

end Sys2Proof.Machine
end

