-- ==== Sys2Proof/Machine/Operands.lean ====
section
/-! DEFINITION. Operand and value computations: truncation, extension, byte order (00_scope.md rule R10,
20_memory.md R52), the operand checks of the typed writes, and the ring index. -/

namespace Sys2Proof.Machine

/-- `trunc_8` of a 32-bit operand (R10, R201). -/
def trunc8 (w : Word) : Byte := w.setWidth 8

/-- `trunc_16` of a 32-bit operand (R10, R203). -/
def trunc16 (w : Word) : Half := w.setWidth 16

/-- `zext_32` of a byte (R10, R182). -/
def zextByte (b : Byte) : Word := b.setWidth 32

/-- `sext_32` of a byte (R10, R181). -/
def sextByte (b : Byte) : Word := b.signExtend 32

/-- `zext_32` of a 16-bit value (R10, R184). -/
def zextHalf (h : Half) : Word := h.setWidth 32

/-- `sext_32` of a 16-bit value (R10, R183). -/
def sextHalf (h : Half) : Word := h.signExtend 32

/-- `{hi, lo}`: the first byte of a word in the stream is its high byte (20_memory.md R52). -/
def joinBytes (hi lo : Byte) : Half := hi ++ lo

/-- The two bytes of a word as they are sent, high byte first (R52, 43_typed_write.md R203). -/
def splitBytes (h : Half) : List Byte := [h.extractLsb' 8 8, h.extractLsb' 0 8]

/-- VAL of a counting response, as 32 bits (30_encoding.md R93). -/
def countVal (n : Nat) : Word := BitVec.ofNat 32 n

/-- The ring index after `i` in a storage of `c` bytes: `(i + 1) mod C` (20_memory.md R51, 40_fifo_ops.md R125). -/
def ringNext (i c : Half) : Half := BitVec.ofNat 16 ((i.toNat + 1) % c.toNat)

/-- The value a typed read returns from its last popped byte `b`, given the high byte `hi` it already holds;
none where a 16-bit read needs a second pop (42_typed_read.md R180 to R184). -/
def readValue (kind : ReadKind) (hi : Option Byte) (b : Byte) : Option Word :=
  match kind, hi with
  | .s8, _ => some (sextByte b)
  | .u8, _ => some (zextByte b)
  | .s16, none => none
  | .u16, none => none
  | .s16, some h => some (sextHalf (joinBytes h b))
  | .u16, some h => some (zextHalf (joinBytes h b))

/-- The result of a typed write's operand checks (43_typed_write.md R200): a range violation, a writeBytes
violation, or the bytes to send. -/
inductive OperandCheck where
  | refuse
  | invalid
  | send (bs : List Byte)
  deriving DecidableEq, Repr

/-- WRB: every ARG is legal, its low byte is sent (43_typed_write.md R201). -/
def checkWrb (arg : Word) : OperandCheck := .send [trunc8 arg]

/-- The slice VALUES[start .. start+len-1], each element truncated to a byte (R202). -/
def sliceBytes (start len : Nat) (values : List Word) : List Byte :=
  ((values.drop start).take len).map trunc8

/-- WRBS: LEN against MAX_CMD (`maxCmd`), then the slice bounds on mathematical integers, then the bytes (R202, R226). -/
def checkWrbs (maxCmd len : Nat) (start : Word) (values : List Word) : OperandCheck :=
  if maxCmd < len then .invalid
  else if start.toInt < 0 ∨ (values.length : Int) < start.toInt + len then .invalid
  else .send (sliceBytes start.toInt.toNat len values)

/-- WRS16: ARG in [-32768, 32767], sent high byte first (R203). -/
def checkWrs16 (arg : Word) : OperandCheck :=
  if arg.toInt < -32768 ∨ 32767 < arg.toInt then .refuse
  else .send (splitBytes (trunc16 arg))

/-- WRU16: ARG in [0, 65535], sent high byte first (R204). -/
def checkWru16 (arg : Word) : OperandCheck :=
  if arg.toInt < 0 ∨ 65535 < arg.toInt then .refuse
  else .send (splitBytes (trunc16 arg))

/-- How many of `n` bytes a transport write call puts on the wire: all of them, or a proper prefix
(43_typed_write.md R205: 0 <= k < |bs|; a draw beyond that stands for the longest proper prefix, log 7). -/
def wireCount (n : Nat) : WriteDraw → Nat
  | .ok => n
  | .fail k => min k (n - 1)

end Sys2Proof.Machine
end

