-- ==== Sys2Proof/Machine/Ops.lean ====
section
/-! DEFINITION. The named operations the steps are built from: FIFO storage and content, responses and errors,
transport calls, and entering CLOSED. -/

namespace Sys2Proof.Machine

/-- What a step answers. -/
abbrev Result := Host.Outcome State Fault Refusal

/-- The byte storage holds at index `a`, none where nothing has written it (10_state.md R24). -/
def Memory.read : Memory → Nat → Option Byte
  | [], _ => none
  | (k, b) :: m, a => if k = a then some b else Memory.read m a

/-- Storage after writing `b` at index `a`, in canonical form. -/
def Memory.write : Memory → Nat → Byte → Memory
  | [], a, b => [(a, b)]
  | (k, v) :: m, a, b =>
    if a < k then (a, b) :: (k, v) :: m
    else if a = k then (a, b) :: m
    else (k, v) :: Memory.write m a b

/-- The canonical form: indices strictly rising. (Every listed byte differs from "no value".) -/
abbrev Memory.wf (m : Memory) : Prop := (m.map Prod.fst).Pairwise (· < ·)

/-- `MemRead(i, 1)` (00_scope.md R12): one byte of storage, 0 <= i < C. -/
def State.memRead (s : State) (i : Half) : Except Fault Byte :=
  if i.toNat < s.cfg.depth.toNat then
    match s.mem.read i.toNat with
    | some b => .ok b
    | none => .error .storageUnwritten
  else .error .storageIndex

/-- `MemWrite(i, 1, b)` (R12): one byte of storage, 0 <= i < C. -/
def State.memWrite (s : State) (i : Half) (b : Byte) : Except Fault State :=
  if i.toNat < s.cfg.depth.toNat then .ok { s with mem := s.mem.write i.toNat b }
  else .error .storageIndex

/-- The FIFO's architectural content Q, oldest byte first (10_state.md R26). -/
def State.queue (s : State) : List Byte :=
  (List.range s.count.toNat).filterMap fun i => s.mem.read ((s.head.toNat + i) % s.cfg.depth.toNat)

/-- The response `r` is delivered to agent `a` (30_encoding.md R90). -/
def State.respond (s : State) (a : Issuer) (r : Rsp) : State := { s with rsps := s.rsps ++ [(a, r)] }

/-- `return v`: the command completes with (OK, 0, v) (00_scope.md R12). -/
def State.complete (s : State) (a : Issuer) (v : Word) : State := s.respond a { st := .ok, val := v }

/-- `raise E(c)`: the command completes with (E, c, 0) (R12). This is the block's one form of exception: nothing
is saved, no mode changes and no handler runs (60_exceptions.md R220, R228). -/
def State.raise (s : State) (a : Issuer) (e : Status) : State := s.respond a { st := e, val := 0#32 }

/-- `REFUSE`: the refusal mark is set and the command has no response (R12, 10_state.md R36, 60_exceptions.md
R224; log 6). -/
def State.refuse (s : State) : State := { s with refused := true }

/-- `hold`: the agent has no enabled step, and nothing changes (R12). -/
def State.hold (s : State) : State := s

/-- The operand carriers of the presented command (10_state.md R20). -/
def State.present (s : State) (c : Cmd) : State := { s with cur := c }

/-- The APP agent is held in CONNECT or in a typed read, not idle (10_state.md R34). -/
def State.isHeld (s : State) (a : Issuer) : Bool :=
  s.connCaller == some a || (s.rd.map ReadRec.agent) == some a

/-- POP is enabled (40_fifo_ops.md R117). -/
def State.popReady (s : State) : Bool := s.count != 0#16 || s.fclosed

/-- What a POP does (40_fifo_ops.md R117): a byte and the state after it, CHANNEL_CLOSED, a hold, or a storage
fault. -/
inductive PopResult where
  | byte (b : Byte) (s : State)
  | closed
  | empty
  | fault (f : Fault)
  deriving DecidableEq, Repr

/-- POP on the FIFO (R117 to R120): drain first, then closed, else hold. -/
def State.fifoPop (s : State) : PopResult :=
  if s.count ≠ 0#16 then
    match s.memRead s.head with
    | .ok b =>
      .byte b
        { s with head := ringNext s.head s.cfg.depth, count := s.count - 1#16, popped := s.popped ++ [b] }
    | .error f => .fault f
  else if s.fclosed then .closed
  else .empty

/-- What `push1` does with the next byte (R111). -/
inductive PushOutcome where
  | accept
  | dropped
  | rejectClosed
  | hold
  deriving DecidableEq, Repr

/-- The case `push1` takes, in the order of R111. -/
def State.push1 (s : State) : PushOutcome :=
  if s.fclosed then .rejectClosed
  else if s.count.toNat < s.cfg.depth.toNat then .accept
  else
    match s.cfg.policy with
    | .drop => .dropped
    | .block => .hold

/-- FCLOSE on the FIFO: the closed mark is set and the content stays (40_fifo_ops.md R122). -/
def State.closeFifo (s : State) : State := { s with fclosed := true }

/-- The scratch area holds the bytes of the current write (43_typed_write.md R206, log 9). -/
def State.loadScratch (s : State) (bs : List Byte) : State :=
  { s with scratch := (bs ++ s.scratch.drop bs.length).take s.cfg.scratchSize }

/-- `TxWrite(bs)`: one transport write call, recorded with the bytes that reached the wire (00_scope.md R12,
43_typed_write.md R205). Whether it succeeded is `d`. -/
def State.txWrite (s : State) (bs : List Byte) (d : WriteDraw) : State :=
  let t := s.loadScratch bs
  { t with tev := t.tev ++ [TEvent.write bs (wireCount bs.length d)] }

/-- The parameters of the transport's `open` (41_link_control.md R145). -/
structure OpenParams where
  baud : Nat
  dataBits : Nat
  parity : Bool
  stopBits : Nat
  flowControl : Bool
  deriving DecidableEq, Repr

/-- BAUD, 8, none, 1, none (R145). -/
def openParams (p : Params) : OpenParams :=
  { baud := p.baud, dataBits := 8, parity := false, stopBits := 1, flowControl := false }

/-- `HOST.open`: HOST answers freely, whatever the parameters (60_exceptions.md R236). -/
def hostOpen (_p : OpenParams) (answer : Bool) : Bool := answer

/-- The transport is flushed and released if it is open (41_link_control.md R155). -/
def State.releaseHandle (s : State) : State :=
  if s.handle then { s with tev := s.tev ++ [TEvent.flush, TEvent.close], handle := false } else s

/-- `if conn_caller != none: conn_result <- res` (R155). With `res = none` this clears a result that is posted
and not yet delivered (log 14). -/
def State.postResult (s : State) (res : Option Rsp) : State :=
  if s.connCaller.isSome then { s with connResult := res } else s

/-- `enter_closed(res)`, the single path into CLOSED (R155). -/
def State.enterClosed (s : State) (res : Option Rsp) : State :=
  let t := s.releaseHandle
  let t := { t with tmr := none, cancelReq := false }
  let t := t.closeFifo
  let t := { t with link := .closed, phase := .idle }
  t.postResult res

/-- `E(c)` with VAL 0, as posted for a held CONNECT (R145, R152, R154, R159). -/
def errorRsp (e : Status) : Rsp := { st := e, val := 0#32 }

/-- (OK, 0, 0) (R150). -/
def okRsp : Rsp := { st := .ok, val := 0#32 }

/-- `isClosed(handle)` of the transport (60_exceptions.md R236): STATUS.HANDLE = 0. -/
def State.transportIsClosed (s : State) : Bool := !s.handle

/-- The bytes on the wire (10_state.md R35). -/
def wire : List TEvent → List Byte
  | [] => []
  | .write bs k :: es => bs.take k ++ wire es
  | .opened _ :: es => wire es
  | .flush :: es => wire es
  | .close :: es => wire es

end Sys2Proof.Machine
end

