-- ==== Sys2Proof/Machine/Fifo.lean ====
section
/-! DEFINITION. The FIFO commands: PUSH and PUSHM on the RX port with their micro-steps, POP and FCLOSE on the OWN
port (40_fifo_ops.md). -/

namespace Sys2Proof.Machine

/-- The issue step of a burst (40_fifo_ops.md R116): the producer's record is set up, or an empty burst completes
at once. The bytes join the transport in-stream. -/
def State.startBurst (s : State) (burst : List Byte) : State :=
  match burst with
  | [] => s.complete s.cur.agent 0#32
  | b :: bs => { s with rx := some { rem := b :: bs, acc := 0, st := .ok }, instream := s.instream ++ (b :: bs) }

/-- PUSH (R115): the burst [D]. It is issued only while no burst is in flight. -/
def execPush (d : Byte) (s : State) : Result :=
  if s.rx.isSome then .next s.hold else .next (s.startBurst [d])

/-- PUSHM (R116): the side-band BURST, which must have N bytes. -/
def execPushm (n : Nat) (s : State) : Result :=
  if s.rx.isSome then .next s.hold
  else if s.cur.burst.length ≠ n then .next s.refuse
  else .next (s.startBurst s.cur.burst)

/-- A burst with no byte left completes with its worst outcome and the number of accepted bytes (R116). -/
def State.finishBurst (s : State) (r : RxRec) : State :=
  if r.rem = [] then { s with rx := none }.respond .rx { st := r.st.toStatus, val := countVal r.acc }
  else { s with rx := some r }

/-- Accept of `b` (R112): the only write to storage. -/
def State.acceptByte (s : State) (b : Byte) (r : RxRec) : Result :=
  match s.memWrite s.tail b with
  | .error f => .fault f
  | .ok t =>
    .next
      ({ t with tail := ringNext t.tail t.cfg.depth, count := t.count + 1#16, accepted := t.accepted ++ [b] }.finishBurst
        { r with rem := r.rem.tail, acc := r.acc + 1 })

/-- Drop of the next byte (R113). -/
def State.dropByte (s : State) (r : RxRec) : State :=
  { s with ovf := true }.finishBurst
    { r with rem := r.rem.tail, st := if r.st = RxStatus.ok then RxStatus.overflow else r.st }

/-- Reject at a closed FIFO: the rest of the burst is not accepted (R116). -/
def State.rejectBurst (s : State) (r : RxRec) : State :=
  s.finishBurst { r with rem := [], st := .channelClosed }

/-- The push1 micro-step of RX on the first byte of the burst in flight (R111). -/
def rxStep (s : State) : Result :=
  match s.rx with
  | none => .next s.hold
  | some r =>
    match r.rem with
    | [] => .next s.hold
    | b :: _ =>
      match s.push1 with
      | .rejectClosed => .next (s.rejectBurst r)
      | .accept => s.acceptByte b r
      | .dropped => .next (s.dropByte r)
      | .hold => .next s.hold

/-- POP (R117 to R120). A POP that holds is kept in `ownPop` (log 5). -/
def execPop (s : State) : Result :=
  match s.fifoPop with
  | .byte b t => .next (t.complete s.cur.agent (zextByte b))
  | .closed => .next (s.raise s.cur.agent .channelClosed)
  | .empty => .next { s with ownPop := some s.cur.agent }
  | .fault f => .fault f

/-- The stand-alone consumer's held POP, once it is enabled (R120). -/
def ownStep (s : State) : Result :=
  match s.ownPop with
  | none => .next s.hold
  | some a =>
    match s.fifoPop with
    | .byte b t => .next ({ t with ownPop := none }.complete a (zextByte b))
    | .closed => .next ({ s with ownPop := none }.raise a .channelClosed)
    | .empty => .next s.hold
    | .fault f => .fault f

/-- FCLOSE (R122). -/
def execFclose (s : State) : Result := .next (s.closeFifo.complete s.cur.agent 0#32)

end Sys2Proof.Machine
end

