-- ==== Sys2Proof/Machine/Reads.lean ====
section
/-! DEFINITION. The typed reads RDS8, RDU8, RDS16, RDU16 and their pop steps (42_typed_read.md). -/

namespace Sys2Proof.Machine

/-- Typed reads and writes of an APP agent have a meaning: link is READY or CLOSED (42_typed_read.md R186,
43_typed_write.md R207). -/
def State.typedAllowed (s : State) : Bool := s.link == .ready || s.link == .closed

/-- The issue step of a typed read (R180): the link-state refusal, the single-reader refusal, the record. -/
def State.startRead (s : State) (kind : ReadKind) : State :=
  if !s.typedAllowed then s.refuse
  else if s.rd.isSome then s.refuse
  else { s with rd := some { agent := s.cur.agent, kind := kind, hi := none } }

/-- A pop step of the typed read in flight (R180, R185). -/
def readStep (s : State) : Result :=
  match s.rd with
  | none => .next s.hold
  | some r =>
    match s.fifoPop with
    | .empty => .next s.hold
    | .closed => .next ({ s with rd := none }.raise r.agent .channelClosed)
    | .fault f => .fault f
    | .byte b t =>
      match readValue r.kind r.hi b with
      | some v => .next ({ t with rd := none }.complete r.agent v)
      | none => .next { t with rd := some { r with hi := some b } }

/-- RDS8 (R181). -/
def execRds8 (s : State) : Result := .next (s.startRead .s8)

/-- RDU8 (R182). -/
def execRdu8 (s : State) : Result := .next (s.startRead .u8)

/-- RDS16 (R183). -/
def execRds16 (s : State) : Result := .next (s.startRead .s16)

/-- RDU16 (R184). -/
def execRdu16 (s : State) : Result := .next (s.startRead .u16)

end Sys2Proof.Machine
end

