-- ==== Sys2Proof/Machine/Link.lean ====
section
/-! DEFINITION. CONNECT, CLOSE and CANCEL (41_link_control.md rules R141 to R143, R154 to R159). -/

namespace Sys2Proof.Machine

/-- A connect is in progress (41_link_control.md R142, R158). -/
def State.connecting (s : State) : Bool := s.link == .opening || s.link == .handshaking

/-- CONNECT (R141, R142): from UNOPENED the agent is held until `connDone`. -/
def execConnect (s : State) : Result :=
  match s.link with
  | .unopened =>
    .next
      { s with
        link := .opening
        phase := .openPort
        attempt := 1#2
        polls := 0
        cancelReq := false
        connCaller := some s.cur.agent
        connResult := none }
  | .ready => .next (s.complete s.cur.agent 0#32)
  | .opening => .next s.refuse
  | .handshaking => .next s.refuse
  | .closed => .next s.refuse

/-- CONNECT completion, a step of the held agent (R143). -/
def connDone (s : State) : Result :=
  match s.connCaller, s.connResult with
  | some a, some r => .next ({ s with connCaller := none, connResult := none }.respond a r)
  | some _, none => .next s.hold
  | none, _ => .next s.hold

/-- CLOSE (R154, R156). -/
def execClose (s : State) : Result :=
  match s.link with
  | .closed => .next (s.complete s.cur.agent 0#32)
  | .opening =>
    .next ((s.enterClosed (some (errorRsp (.connectionFailed .closed)))).complete s.cur.agent 0#32)
  | .handshaking =>
    .next ((s.enterClosed (some (errorRsp (.connectionFailed .closed)))).complete s.cur.agent 0#32)
  | .unopened => .next ((s.enterClosed none).complete s.cur.agent 0#32)
  | .ready => .next ((s.enterClosed none).complete s.cur.agent 0#32)

/-- CANCEL (R158). -/
def execCancel (s : State) : Result :=
  if s.connecting then .next ({ s with cancelReq := true }.complete s.cur.agent 1#32)
  else .next (s.complete s.cur.agent 0#32)

end Sys2Proof.Machine
end

