-- ==== Sys2Proof/Machine/Sequencer.lean ====
section
/-! DEFINITION. The handshake sequencer SEQ and the timer TMR (41_link_control.md rules R144 to R153, R159). -/

namespace Sys2Proof.Machine

/-- `attempt_fail` (R151, R152): the handle is released; a cooldown follows while attempts are left. -/
def State.attemptFail (s : State) : State :=
  let t := { s with tev := s.tev ++ [TEvent.close], handle := false }
  if t.attempt.toNat < t.cfg.maxAttempts.toNat then
    { t with link := .opening, phase := .cooldown, tmr := some .cooldown }
  else t.enterClosed (some (errorRsp (.connectionFailed .attemptsExhausted)))

/-- OPEN step (R145). -/
def State.openStep (s : State) (answer : Bool) : State :=
  let ok := hostOpen (openParams s.cfg) answer
  let t := { s with tev := s.tev ++ [TEvent.opened ok] }
  if ok then { t with handle := true, polls := 0, link := .handshaking, phase := .sendStart }
  else t.enterClosed (some (errorRsp .transportOpen))

/-- SEND_START step (R146). -/
def State.sendStartStep (s : State) (d : WriteDraw) : State :=
  let t := s.txWrite [s.cfg.startOp] d
  match d with
  | .ok => { t with phase := .sendQuery }
  | .fail _ => t.attemptFail

/-- SEND_QUERY step (R147). -/
def State.sendQueryStep (s : State) (d : WriteDraw) : State :=
  let t := s.txWrite [s.cfg.queryOp, s.cfg.modePkt] d
  match d with
  | .ok => { t with polls := t.polls + 1, phase := .delay, tmr := some .poll }
  | .fail _ => t.attemptFail

/-- Mode compare (R150). -/
def State.modeCompare (s : State) (b : Byte) : State :=
  if b = s.cfg.passive then { s with link := .ready, phase := .idle, connResult := some okRsp }
  else { s with phase := .sendQuery }

/-- READ_MODE step (R149). An empty closed FIFO cannot occur in HANDSHAKING and leaves SEQ stuck (log 15). -/
def State.readModeStep (s : State) : Result :=
  match s.fifoPop with
  | .byte b t => .next (t.modeCompare b)
  | .closed => .next s.hold
  | .empty => .next s.hold
  | .fault f => .fault f

/-- The phase step of SEQ is enabled (R144, R145, R149). -/
def State.seqReady (s : State) : Bool :=
  match s.phase with
  | .openPort => s.link == .opening
  | .sendStart => true
  | .sendQuery => true
  | .readMode => !s.cancelReq && s.popReady
  | .idle => false
  | .delay => false
  | .cooldown => false

/-- The phase step of SEQ (R144 to R150). -/
def seqStep (answer : Bool) (d : WriteDraw) (s : State) : Result :=
  match s.phase with
  | .openPort => .next (s.openStep answer)
  | .sendStart => .next (s.sendStartStep d)
  | .sendQuery => .next (s.sendQueryStep d)
  | .readMode => s.readModeStep
  | .idle => .next s.hold
  | .delay => .next s.hold
  | .cooldown => .next s.hold

/-- The cancel step is enabled (R159). -/
def State.cancelReady (s : State) : Bool := s.cancelReq && s.connecting

/-- The cancel step (R159). -/
def cancelStep (s : State) : Result :=
  .next (s.enterClosed (some (errorRsp (.connectionFailed .cancelled))))

/-- The delay end is enabled (R148, R153). -/
def State.tmrReady (s : State) : Bool :=
  !s.cancelReq && ((s.phase == .delay && s.tmr == some .poll) || (s.phase == .cooldown && s.tmr == some .cooldown))

/-- The delay end (R148, R153). -/
def tmrStep (s : State) : Result :=
  match s.tmr with
  | some .poll => .next { s with tmr := none, phase := .readMode }
  | some .cooldown => .next { s with tmr := none, attempt := s.attempt + 1#2, phase := .openPort }
  | none => .next s.hold

end Sys2Proof.Machine
end

