-- ==== Sys2Proof/Machine/Agents.lean ====
section
/-! DEFINITION. Which move comes next, whether it is enabled, and what it asks the machine to do: the block's
analogue of instruction fetch (60_exceptions.md rules R231, R232). -/

namespace Sys2Proof.Machine

/-- The next move: the head of the schedule, or a free one where nothing is scheduled (log 1, log 2). -/
def State.nextMove (s : State) : Move :=
  match s.sched with
  | m :: _ => m
  | [] => Config.freeMove s.tick

/-- The state with its next move taken off the schedule. -/
def State.advance (s : State) : State := { s with sched := s.sched.tail, tick := s.tick + 1 }

/-- HOST issues no commands but CLOSE and CANCEL (30_encoding.md R83, 60_exceptions.md R236). -/
def hostMayIssue (w : Half) : Bool := w == encode .close || w == encode .cancel

/-- The agent may present a command now.

RX: no burst is in flight (40_fifo_ops.md R116), and the handle is present or the FIFO is used stand-alone
(60_exceptions.md R231, D33). Those rules speak of bursts. That RX presents no other word outside them either, so that
an illegal word of RX gets its ILLEGAL_COMMAND (R86, R233) only inside them, is the model's choice (DESIGN CHOICE,
log 26); so is that the later PUSHMs of a split burst are not presented while the handle is released (R236, D10;
DESIGN CHOICE, log 27).

OWN: the outside consumer of a stand-alone FIFO (log 5). While its POP is held it presents no second POP (R123), but
any other word: FCLOSE never holds (R122).

APP: the agent exists and is idle (10_state.md R34). HOST: see `hostMayIssue`. -/
def State.canIssue (s : State) (c : Cmd) : Bool :=
  match c.agent with
  | .rx => s.rx.isNone && (s.cfg.standalone || s.handle)
  | .own => s.cfg.standalone && (s.ownPop.isNone || c.cw != encode .pop)
  | .app k => !s.cfg.standalone && decide (k < s.cfg.nApp) && !s.isHeld (.app k)
  | .host => !s.cfg.standalone && hostMayIssue c.cw

/-- The push1 micro-step is enabled: a byte is left and the FIFO does not hold it (R111, R114). -/
def State.rxReady (s : State) : Bool :=
  match s.rx with
  | none => false
  | some r => r.rem != [] && s.push1 != .hold

/-- The move's step is enabled (R114, R117, R143, R144, R180, R231). -/
def State.enabled (s : State) : Move → Bool
  | .issue c => s.canIssue c
  | .rxStep => s.rxReady
  | .ownStep => s.ownPop.isSome && s.popReady
  | .readStep => s.rd.isSome && s.popReady
  | .connDone => s.connCaller.isSome && s.connResult.isSome
  | .seqStep _ _ => s.seqReady
  | .cancelStep => s.cancelReady
  | .tmrStep => s.tmrReady

/-- What the machine is to do with its next move: run a command from its presented state, or take `outcome`. -/
inductive Fetched where
  | run (i : Instr) (s : State)
  | done (outcome : Result)

/-- An illegal word completes at once with (ILLEGAL_COMMAND, 0, 0) and changes nothing else (30_encoding.md
R86). -/
def illegalStep (s : State) (c : Cmd) : State := s.raise c.agent .illegalCommand

/-- Presenting a command: its word is decoded at the agent's port (R85). -/
def State.issueCommand (s : State) (c : Cmd) : Fetched :=
  match decode c.agent.port c.cw with
  | .command i => .run i (s.present c)
  | .illegal _ => .done (.next (illegalStep s c))

/-- An enabled move: a command to run, or the step of an agent. -/
def State.perform (s : State) : Move → Fetched
  | .issue c => s.issueCommand c
  | .rxStep => .done (rxStep s)
  | .ownStep => .done (ownStep s)
  | .readStep => .done (readStep s)
  | .connDone => .done (connDone s)
  | .seqStep answer d => .done (seqStep answer d s)
  | .cancelStep => .done (cancelStep s)
  | .tmrStep => .done (tmrStep s)

/-- The next move, taken off the schedule and performed if it is enabled; a move that is not enabled is a hold
and changes nothing else (00_scope.md R12, log 1). -/
def State.fetch (s : State) : Fetched :=
  if s.advance.enabled s.nextMove then s.advance.perform s.nextMove else .done (.next s.advance.hold)

/-- The agent that presents a lone word for `withFetchWord`: the issuer at the port that carries its opcode, with
APP_0 at the APP port (log 21). -/
def fetchAgent (w : Half) : Issuer :=
  match homePort w with
  | .rx => .rx
  | .own => .own
  | .app => .app 0

/-- The command `withFetchWord` presents: every operand outside the word is zeros (as many as the word names),
and a transport write would succeed (log 21). -/
def fetchCmd (w : Half) : Cmd :=
  { agent := fetchAgent w
    cw := w
    arg := 0#32
    burst := List.replicate (nField w) 0#8
    values := List.replicate (lenField w) 0#32
    draw := .ok }

/-- The stand-alone flag a lone word needs: OWN is an outside issuer only in a stand-alone FIFO, APP only in the
whole block, and RX issues in the whole block only while the handle is present (log 21). -/
def fetchStandalone (s : State) (w : Half) : Bool :=
  match homePort w with
  | .rx => s.cfg.standalone || !s.handle
  | .own => true
  | .app => false

/-- The state whose next move is to present the word (log 21). -/
def State.scheduleWord (s : State) (w : Half) : State :=
  { s with
    cfg := { s.cfg with standalone := fetchStandalone s w }
    sched := .issue (fetchCmd w) :: s.sched }

end Sys2Proof.Machine
end

