-- ==== Sys2Proof/Machine/Writes.lean ====
section
/-! DEFINITION. The typed writes WRB, WRBS, WRS16, WRU16 (43_typed_write.md). -/

namespace Sys2Proof.Machine

/-- The transport call of a typed write in READY and its response (R200, R205). -/
def State.sendBytes (s : State) (bs : List Byte) : State :=
  if bs = [] then s.complete s.cur.agent 0#32
  else
    match s.cur.draw with
    | .ok => (s.txWrite bs .ok).complete s.cur.agent (countVal bs.length)
    | .fail k => (s.txWrite bs (.fail k)).raise s.cur.agent .transportIo

/-- A typed write in its single issue step, with the checks in the order of R200 and 60_exceptions.md R226. -/
def State.typedWrite (s : State) (check : OperandCheck) : State :=
  if !s.typedAllowed then s.refuse
  else
    match check with
    | .refuse => s.refuse
    | .invalid => s.raise s.cur.agent .invalidArgument
    | .send bs => if s.link = .closed then s.raise s.cur.agent .channelClosed else s.sendBytes bs

/-- WRB (R201). -/
def execWrb (s : State) : Result := .next (s.typedWrite (checkWrb s.cur.arg))

/-- WRBS (R202). -/
def execWrbs (len : Nat) (s : State) : Result :=
  .next (s.typedWrite (checkWrbs s.cfg.maxCmd.toNat len s.cur.arg s.cur.values))

/-- WRS16 (R203). -/
def execWrs16 (s : State) : Result := .next (s.typedWrite (checkWrs16 s.cur.arg))

/-- WRU16 (R204). -/
def execWru16 (s : State) : Result := .next (s.typedWrite (checkWru16 s.cur.arg))

end Sys2Proof.Machine
end

