-- ==== Sys2Proof/Machine/Dispatch.lean ====
section
/-! DEFINITION. One arm per command of the opcode map. -/

namespace Sys2Proof.Machine

/-- The meaning of a command in its issue step; its operands outside the word stand in `s.cur`. -/
def exec (i : Instr) (s : State) : Host.Outcome State Fault Refusal :=
  match i with
  | .push d => Sys2Proof.Machine.execPush d s
  | .pushm n => Sys2Proof.Machine.execPushm n s
  | .pop => Sys2Proof.Machine.execPop s
  | .fclose => Sys2Proof.Machine.execFclose s
  | .connect => Sys2Proof.Machine.execConnect s
  | .close => Sys2Proof.Machine.execClose s
  | .cancel => Sys2Proof.Machine.execCancel s
  | .rds8 => Sys2Proof.Machine.execRds8 s
  | .rdu8 => Sys2Proof.Machine.execRdu8 s
  | .rds16 => Sys2Proof.Machine.execRds16 s
  | .rdu16 => Sys2Proof.Machine.execRdu16 s
  | .wrb => Sys2Proof.Machine.execWrb s
  | .wrbs len => Sys2Proof.Machine.execWrbs len s
  | .wrs16 => Sys2Proof.Machine.execWrs16 s
  | .wru16 => Sys2Proof.Machine.execWru16 s

end Sys2Proof.Machine
end

