-- ==== Sys2Proof/Machine/Step.lean ====
section
/-! DEFINITION. One atomic step of the block (20_memory.md rule R60). -/

namespace Sys2Proof.Machine

/-- One step: the next move, with a presented command run by `exec`. -/
def step (s : State) : Host.Outcome State Fault Refusal :=
  match s.fetch with
  | .run i t => exec i t
  | .done outcome => outcome

/-- `s` with the word `w` placed where the next step takes its command: at the head of the schedule (log 21). A
command is 16 bits, so `nbits` above 16 adds nothing. -/
def State.withFetchWord (s : State) (nbits w : Nat) : State :=
  s.scheduleWord (BitVec.ofNat 16 (w % 2 ^ nbits))

end Sys2Proof.Machine
end

