-- ==== Sys2Proof/Machine/Assembler.lean ====
section
/-! DEFINITION. Statements of the assembler and its pseudo-instructions as presented commands (30_encoding.md
rules R94, R95), and a delivered burst as PUSHM commands (60_exceptions.md R236). -/

namespace Sys2Proof.Machine

/-- One assembler statement without its agent prefix (30_encoding.md R94), or a pseudo-instruction (R95). -/
inductive AsmOp where
  | push (d : Byte)
  | pushm (bs : List Byte)
  | pop
  | fclose
  | connect
  | close
  | cancel
  | rds8
  | rdu8
  | rds16
  | rdu16
  | wrb (v : Int)
  | wrbs (len : Nat) (start : Int) (vs : List Int)
  | wrs16 (v : Int)
  | wru16 (v : Int)
  | rdmode
  | wrcmd2 (a b : Int)
  | querymode
  deriving DecidableEq, Repr

/-- A pseudo-instruction expands to one command; every other statement is its own expansion (R95). QUERYMODE sends
the instance's QUERY_OP and MODE_PKT. -/
def AsmOp.expand (p : Params) : AsmOp → AsmOp
  | .rdmode => .rdu8
  | .wrcmd2 a b => .wrbs 2 0 [a, b]
  | .querymode => .wrbs 2 0 [p.queryOp.toNat, p.modePkt.toNat]
  | op => op

/-- The command of an expanded statement; the assembler sets N to the list length (R94). -/
def AsmOp.instr : AsmOp → Instr
  | .push d => .push d
  | .pushm bs => .pushm bs.length
  | .pop => .pop
  | .fclose => .fclose
  | .connect => .connect
  | .close => .close
  | .cancel => .cancel
  | .rds8 => .rds8
  | .rdu8 => .rdu8
  | .rds16 => .rds16
  | .rdu16 => .rdu16
  | .wrb _ => .wrb
  | .wrbs len _ _ => .wrbs len
  | .wrs16 _ => .wrs16
  | .wru16 _ => .wru16
  | .rdmode => .rdu8
  | .wrcmd2 _ _ => .wrbs 2
  | .querymode => .wrbs 2

/-- ARG of an expanded statement, as 32 bits (30_encoding.md R82, R94). -/
def AsmOp.arg : AsmOp → Word
  | .wrb v => BitVec.ofInt 32 v
  | .wrbs _ start _ => BitVec.ofInt 32 start
  | .wrs16 v => BitVec.ofInt 32 v
  | .wru16 v => BitVec.ofInt 32 v
  | _ => 0#32

/-- The side-band BURST of a statement. -/
def AsmOp.burst : AsmOp → List Byte
  | .pushm bs => bs
  | _ => []

/-- The side-band VALUES of an expanded statement. -/
def AsmOp.values : AsmOp → List Word
  | .wrbs _ _ vs => vs.map (BitVec.ofInt 32)
  | _ => []

/-- A statement as a presented command. Without an agent prefix it is issued by APP0 (R94); an undrawn write
succeeds unless `draw` says otherwise. -/
def assemble (p : Params) (agent : Option Issuer) (op : AsmOp) (draw : WriteDraw) : Cmd :=
  { agent := agent.getD (.app 0)
    cw := encode (op.expand p).instr
    arg := (op.expand p).arg
    burst := (op.expand p).burst
    values := (op.expand p).values
    draw := draw }

/-- `deliver` with `fuel` bounding the number of commands: at most 4095 bytes a PUSHM (60_exceptions.md R236). -/
def deliverChunks (p : Params) : Nat → List Byte → List Cmd
  | 0, _ => []
  | fuel + 1, bs =>
    if bs.length ≤ 4095 then [assemble p (some .rx) (.pushm bs) .ok]
    else assemble p (some .rx) (.pushm (bs.take 4095)) .ok :: deliverChunks p fuel (bs.drop 4095)

/-- The PUSHM commands RX issues for a burst that HOST delivers; a longer burst is split (R94, R236). -/
def deliver (p : Params) (bs : List Byte) : List Cmd := deliverChunks p (bs.length + 1) bs

end Sys2Proof.Machine
end

