-- ==== Sys2Proof/Safety.lean ====
section
/-! DEFINITION. What a safe run is: the invariants of the FIFO and of the Link Controller, the transition table,
and weak fairness. Statements are written in these terms. -/

namespace Sys2Proof.Machine

/-- The FIFO invariants of 10_state.md R26, with the storage bounds of 20_memory.md R51. -/
structure FifoInv (s : State) : Prop where
  depth_pos : 0 < s.cfg.depth.toNat
  count_le : s.count.toNat ≤ s.cfg.depth.toNat
  head_lt : s.head.toNat < s.cfg.depth.toNat
  tail_eq : s.tail.toNat = (s.head.toNat + s.count.toNat) % s.cfg.depth.toNat
  mem_wf : s.mem.wf
  mem_bound : ∀ c ∈ s.mem, c.1 < s.cfg.depth.toNat
  queue_length : s.queue.length = s.count.toNat

/-- The FIFO order law of 20_memory.md R61: the accepted bytes are the popped bytes followed by the content. -/
def FifoOrder (s : State) : Prop := s.accepted = s.popped ++ s.queue

/-- The bytes of the burst in flight that are not yet pushed (10_state.md R33). -/
def State.pending (s : State) : List Byte :=
  match s.rx with
  | none => []
  | some r => r.rem

/-- Arrival order (20_memory.md R62): what was accepted, with what is still to be pushed, is the in-stream with
the rejected bytes removed, and no byte is rejected by an open FIFO under BLOCK. -/
structure ArrivalInv (s : State) : Prop where
  order : (s.accepted ++ s.pending).Sublist s.instream
  complete : s.cfg.policy = .block → s.fclosed = false → s.accepted ++ s.pending = s.instream

/-- The burst in flight and the overflow mark (10_state.md R28, R33, 40_fifo_ops.md R125 (c)). -/
structure BurstInv (s : State) : Prop where
  rem_ne : ∀ r, s.rx = some r → r.rem ≠ []
  bound : ∀ r, s.rx = some r → r.acc + r.rem.length ≤ 4095
  open_st : ∀ r, s.rx = some r → r.st ≠ .channelClosed
  overflow : ∀ r, s.rx = some r → r.st = .overflow → s.ovf = true
  ovf_block : s.cfg.policy = .block → s.ovf = false
  scratch_length : s.scratch.length = s.cfg.scratchSize

/-- The legal (link, phase) pairs (10_state.md R23). -/
def legalPairs : List (LinkState × Phase) :=
  [(.unopened, .idle), (.opening, .openPort), (.opening, .cooldown), (.handshaking, .sendStart),
    (.handshaking, .sendQuery), (.handshaking, .delay), (.handshaking, .readMode), (.ready, .idle), (.closed, .idle)]

/-- The Link Controller invariants (10_state.md R23, R29, R37 and what 41_link_control.md derives). -/
structure LinkInv (s : State) : Prop where
  pair : (s.link, s.phase) ∈ legalPairs
  tmr_poll : s.tmr = some .poll ↔ s.phase = .delay
  tmr_cooldown : s.tmr = some .cooldown ↔ s.phase = .cooldown
  handle : s.handle = true ↔ s.link = .handshaking ∨ s.link = .ready
  cancel : s.cancelReq = true → s.connecting = true
  attempts_pos : 0 < s.cfg.maxAttempts.toNat
  attempt_le : s.attempt.toNat ≤ s.cfg.maxAttempts.toNat
  attempt_pos : s.connecting = true ∨ s.link = .ready → 0 < s.attempt.toNat
  attempt_cooldown : s.phase = .cooldown → s.attempt.toNat < s.cfg.maxAttempts.toNat
  caller : s.connecting = true → s.connCaller.isSome = true ∧ s.connResult = none
  result : s.connResult.isSome = true → s.connCaller.isSome = true
  result_ready : s.link = .ready → ∀ r, s.connResult = some r → r = okRsp
  result_closed : s.link = .closed → ∀ r, s.connResult = some r →
    r.val = 0#32 ∧ (r.st = .transportOpen ∨ ∃ c, r.st = .connectionFailed c)
  unopened : s.link = .unopened → s.connCaller = none ∧ s.tev = [] ∧ s.attempt = 0#2
  read : s.rd.isSome = true → s.typedAllowed = true

/-- What the roles of 60_exceptions.md R233 and the two uses of the FIFO (30_encoding.md R83, log 5) keep: in the
whole block the FIFO is closed exactly in CLOSED (41_link_control.md R149, R155) and no outside POP is held; in the
stand-alone FIFO there is no link traffic; held agents are existing APP agents (10_state.md R29, R32). -/
structure RoleInv (s : State) : Prop where
  closed_iff : s.cfg.standalone = false → (s.fclosed = true ↔ s.link = .closed)
  own_none : s.cfg.standalone = false → s.ownPop = none
  standalone : s.cfg.standalone = true → s.link = .unopened ∧ s.rd = none
  caller_app : ∀ a, s.connCaller = some a → ∃ k, k < s.cfg.nApp ∧ a = .app k
  reader_app : ∀ r, s.rd = some r → ∃ k, k < s.cfg.nApp ∧ r.agent = .app k

/-- A state is safe when all invariants hold. -/
structure Safe (s : State) : Prop where
  fifo : FifoInv s
  order : FifoOrder s
  arrival : ArrivalInv s
  burst : BurstInv s
  link : LinkInv s
  role : RoleInv s

/-- What makes the sequencer's control state change: the events of 41_link_control.md R160. -/
inductive LinkEvent where
  | connect
  | openOk
  | openFails
  | writeOk
  | writeFails
  | tmr
  | modePassive
  | modeOther
  | cancel
  | close
  deriving DecidableEq, Repr

/-- One row of the transition table (R160), with the response posted for the held CONNECT. -/
structure Transition where
  source : LinkState × Phase
  event : LinkEvent
  target : LinkState × Phase
  deriving DecidableEq, Repr

/-- The rows of 41_link_control.md R160 that change (link, phase), one per source pair. -/
def transitionTable : List Transition :=
  [⟨(.unopened, .idle), .connect, (.opening, .openPort)⟩,
    ⟨(.opening, .openPort), .openOk, (.handshaking, .sendStart)⟩,
    ⟨(.opening, .openPort), .openFails, (.closed, .idle)⟩,
    ⟨(.handshaking, .sendStart), .writeOk, (.handshaking, .sendQuery)⟩,
    ⟨(.handshaking, .sendQuery), .writeOk, (.handshaking, .delay)⟩,
    ⟨(.handshaking, .sendStart), .writeFails, (.opening, .cooldown)⟩,
    ⟨(.handshaking, .sendQuery), .writeFails, (.opening, .cooldown)⟩,
    ⟨(.handshaking, .sendStart), .writeFails, (.closed, .idle)⟩,
    ⟨(.handshaking, .sendQuery), .writeFails, (.closed, .idle)⟩,
    ⟨(.handshaking, .delay), .tmr, (.handshaking, .readMode)⟩,
    ⟨(.handshaking, .readMode), .modePassive, (.ready, .idle)⟩,
    ⟨(.handshaking, .readMode), .modeOther, (.handshaking, .sendQuery)⟩,
    ⟨(.opening, .cooldown), .tmr, (.opening, .openPort)⟩,
    ⟨(.opening, .openPort), .cancel, (.closed, .idle)⟩,
    ⟨(.opening, .cooldown), .cancel, (.closed, .idle)⟩,
    ⟨(.handshaking, .sendStart), .cancel, (.closed, .idle)⟩,
    ⟨(.handshaking, .sendQuery), .cancel, (.closed, .idle)⟩,
    ⟨(.handshaking, .delay), .cancel, (.closed, .idle)⟩,
    ⟨(.handshaking, .readMode), .cancel, (.closed, .idle)⟩,
    ⟨(.opening, .openPort), .close, (.closed, .idle)⟩,
    ⟨(.opening, .cooldown), .close, (.closed, .idle)⟩,
    ⟨(.handshaking, .sendStart), .close, (.closed, .idle)⟩,
    ⟨(.handshaking, .sendQuery), .close, (.closed, .idle)⟩,
    ⟨(.handshaking, .delay), .close, (.closed, .idle)⟩,
    ⟨(.handshaking, .readMode), .close, (.closed, .idle)⟩,
    ⟨(.unopened, .idle), .close, (.closed, .idle)⟩,
    ⟨(.ready, .idle), .close, (.closed, .idle)⟩]

/-- The event of R160 that a move is, in the state it is taken from; none for a move that drives no transition. -/
def State.linkEvent (s : State) : Move → Option LinkEvent
  | .issue c =>
    if c.cw = encode .connect then some .connect else if c.cw = encode .close then some .close else none
  | .seqStep answer d =>
    match s.phase with
    | .openPort => if answer then some .openOk else some .openFails
    | .readMode => if s.queue.head? = some s.cfg.passive then some .modePassive else some .modeOther
    | _ => if d = .ok then some .writeOk else some .writeFails
  | .cancelStep => some .cancel
  | .tmrStep => some .tmr
  | _ => none

/-- The operand check of a typed write in the state it is issued in; none for any other command
(43_typed_write.md R200 to R204). -/
def State.writeCheck (s : State) : Instr → Option OperandCheck
  | .wrb => some (checkWrb s.cur.arg)
  | .wrbs len => some (checkWrbs s.cfg.maxCmd.toNat len s.cur.arg s.cur.values)
  | .wrs16 => some (checkWrs16 s.cur.arg)
  | .wru16 => some (checkWru16 s.cur.arg)
  | _ => none

/-- The kind of a typed read; none for any other command (42_typed_read.md R180). -/
def readKindOf : Instr → Option ReadKind
  | .rds8 => some .s8
  | .rdu8 => some .u8
  | .rds16 => some .s16
  | .rdu16 => some .u16
  | _ => none

/-- The state after an entry to CLOSED that posts `res`, field by field (41_link_control.md R155). -/
def State.closedWith (s : State) (res : Option Rsp) : State :=
  { s with
    tev := s.tev ++ (if s.handle then [TEvent.flush, TEvent.close] else [])
    handle := false
    tmr := none
    cancelReq := false
    fclosed := true
    link := .closed
    phase := .idle
    connResult := if s.connCaller.isSome then res else s.connResult }

/-- The events a transport write appends (20_memory.md R56 (d)). -/
def TEvent.isWrite : TEvent → Bool
  | .write _ _ => true
  | _ => false

/-- `n` push1 micro-steps of RX in a row, with no other agent's step between them (40_fifo_ops.md R116). -/
def rxSteps : Nat → State → Result
  | 0, s => .next s
  | n + 1, s =>
    match rxStep s with
    | .next t => rxSteps n t
    | .fault f => .fault f
    | .refused r => .refused r

/-- `s` with `m` as its one scheduled move. -/
def State.withMove (s : State) (m : Move) : State := { s with sched := [m] }

/-- An infinite run of the block, with the move taken at each time: any interleaving of the agents' steps
(20_memory.md R60). -/
def IsRun (moves : Nat → Move) (run : Nat → State) : Prop :=
  ∀ n, step ((run n).withMove (moves n)) = .next (run (n + 1))

/-- The step taken at time `n` is an enabled step of the class `act`. -/
def Takes (moves : Nat → Move) (run : Nat → State) (act : Move → Prop) (n : Nat) : Prop :=
  act (moves n) ∧ (run n).enabled (moves n) = true

/-- Weak fairness for a class of steps (20_memory.md R66): if from some time on a step of the class is always
enabled, one is taken after every time. -/
def WeaklyFair (moves : Nat → Move) (run : Nat → State) (act : Move → Prop) : Prop :=
  (∃ n₀, ∀ n, n₀ ≤ n → ∃ m, act m ∧ (run n).enabled m = true) → ∀ n₀, ∃ n, n₀ ≤ n ∧ Takes moves run act n

end Sys2Proof.Machine
end

