-- ==== Sys2Proof/Certificates/Slice0/Obligations.lean ====
section
/-! DEFINITION. The statements for the provers. Each docstring names the rules of spec/ it formalises. -/

open Sys2Proof Sys2Proof.Machine

/-! ### Encoding -/

/-- 30_encoding.md R81, R82, R84, R85: the word of every well-formed command decodes, at the command's port, to that
command, for every value of every operand. -/
def Obligations.DecodeEncodeAgree : Prop :=
  ∀ i : Instr, i.wf = true → decode i.port (encode i) = .command i

/-- 30_encoding.md R85: a word that decodes to a command at a port is that command's own encoding, the command is
well formed, and the port is its own: no word has two meanings and no bit of it is dropped. -/
def Obligations.DecodedWordIsItsEncoding : Prop :=
  ∀ (p : Port) (w : Half) (i : Instr), decode p w = .command i → i.wf = true ∧ i.port = p ∧ encode i = w

/-- 30_encoding.md R86, the list of illegal encodings: OP = 0x0, a port that is not the opcode's, or a nonzero
reserved field of formats B, L, and N or A; format V has none. -/
def Obligations.IllegalWordsExactly : Prop :=
  ∀ (p : Port) (w : Half),
    (∃ why, decode p w = .illegal why) ↔
      (opField w = 0x0#4 ∨ p ≠ homePort w ∨ (opField w = 0x1#4 ∧ w.extractLsb' 8 4 ≠ 0#4) ∨
        (opField w = 0xD#4 ∧ w.extractLsb' 5 7 ≠ 0#7) ∨
        (opField w ≠ 0x0#4 ∧ opField w ≠ 0x1#4 ∧ opField w ≠ 0x2#4 ∧ opField w ≠ 0xD#4 ∧
          w.extractLsb' 0 12 ≠ 0#12))

/-- 30_encoding.md R86: an illegal word completes in its issue step with (ILLEGAL_COMMAND, 0, 0) and changes nothing
but the response of its agent (and the model's own schedule, logs 1 and 2). When an agent may present a word at all is
`canIssue` (for RX outside its bursts the model's choice, log 26). -/
def Obligations.IllegalCommandResponds : Prop :=
  ∀ (s : State) (c : Cmd) (why : IllegalReason),
    s.nextMove = .issue c → s.advance.canIssue c = true → decode c.agent.port c.cw = .illegal why →
      step s = .next { s.advance with rsps := s.rsps ++ [(c.agent, { st := .illegalCommand, val := 0#32 })] }

/-- 30_encoding.md R97: the encoding examples, through the assembler, and the illegal examples. -/
def Obligations.EncodingExamples : Prop :=
  ∀ p : Params, (assemble p (some .rx) (.push 0x41#8) .ok).cw = 0x1041#16 ∧
    (assemble p (some .rx) (.pushm [1#8, 2#8, 3#8]) .ok).cw = 0x2003#16 ∧
    (assemble p (some .own) .pop .ok).cw = 0x3000#16 ∧ (assemble p (some .own) .fclose .ok).cw = 0x4000#16 ∧
    (assemble p none .connect .ok).cw = 0x5000#16 ∧ (assemble p none .close .ok).cw = 0x6000#16 ∧
    (assemble p none .cancel .ok).cw = 0x7000#16 ∧ (assemble p none .rds8 .ok).cw = 0x8000#16 ∧
    (assemble p none .rdu8 .ok).cw = 0x9000#16 ∧ (assemble p none .rds16 .ok).cw = 0xA000#16 ∧
    (assemble p none .rdu16 .ok).cw = 0xB000#16 ∧
    ((assemble p none (.wrb 300) .ok).cw = 0xC000#16 ∧ (assemble p none (.wrb 300) .ok).arg = 0x0000012C#32) ∧
    (∀ vs, (assemble p none (.wrbs 26 0 vs) .ok).cw = 0xD01A#16 ∧ (assemble p none (.wrbs 27 0 vs) .ok).cw = 0xD01B#16) ∧
    ((assemble p none (.wrs16 (-2)) .ok).cw = 0xE000#16 ∧ (assemble p none (.wrs16 (-2)) .ok).arg = 0xFFFFFFFE#32) ∧
    ((assemble p none (.wru16 65535) .ok).cw = 0xF000#16 ∧
      (assemble p none (.wru16 65535) .ok).arg = 0x0000FFFF#32) ∧
    (∀ port, decode port 0x0000#16 = .illegal .reservedOpcode) ∧ decode .own 0x3001#16 = .illegal .reservedBits ∧
    decode .rx 0x1100#16 = .illegal .reservedBits ∧ decode .app 0xD020#16 = .illegal .reservedBits ∧
    decode .rx 0x9000#16 = .illegal .wrongPort

/-- 30_encoding.md R80, R85 and 60_exceptions.md R232: where the next move presents a word that decodes to a
command, and its agent may issue one, the step is `exec` of that command. The move is taken off the schedule and the
command's operand carriers are latched first (logs 1 and 11). R232: where the next move is an agent's own step and it is
enabled, the step is that agent's, with the draws the move carries (log 7), after the move is taken off the
schedule. -/
def Obligations.StepRunsDecodedCommand : Prop :=
  (∀ (s : State) (c : Cmd) (i : Instr),
    s.nextMove = .issue c → s.advance.canIssue c = true → decode c.agent.port c.cw = .command i →
      step s = exec i { s with sched := s.sched.tail, tick := s.tick + 1, cur := c }) ∧
    ∀ s : State, s.advance.enabled s.nextMove = true →
      (s.nextMove = .rxStep → step s = rxStep { s with sched := s.sched.tail, tick := s.tick + 1 }) ∧
        (s.nextMove = .ownStep → step s = ownStep { s with sched := s.sched.tail, tick := s.tick + 1 }) ∧
        (s.nextMove = .readStep → step s = readStep { s with sched := s.sched.tail, tick := s.tick + 1 }) ∧
        (s.nextMove = .connDone → step s = connDone { s with sched := s.sched.tail, tick := s.tick + 1 }) ∧
        (∀ (answer : Bool) (d : WriteDraw), s.nextMove = .seqStep answer d →
          step s = seqStep answer d { s with sched := s.sched.tail, tick := s.tick + 1 }) ∧
        (s.nextMove = .cancelStep → step s = cancelStep { s with sched := s.sched.tail, tick := s.tick + 1 }) ∧
        (s.nextMove = .tmrStep → step s = tmrStep { s with sched := s.sched.tail, tick := s.tick + 1 })

/-! ### The FIFO -/

/-- 40_fifo_ops.md R115, R116, the issue step of PUSH and PUSHM. With no burst in flight: PUSH D sets up the burst
[D]; for PUSHM a side-band mismatch is REFUSED, an empty burst completes at once with (OK, 0, 0), and any other is set
up. The bytes join the in-stream; nothing else changes. R116 says only REFUSE: that the refused command answers a next
state with the mark set and nothing else changed is the model's choice (log 6). With a burst in flight no issue is
enabled; that this holds of RX's illegal words too, of which R116 does not speak, is the model's choice (log 26), and so
is that a push presented all the same is no step (log 22). -/
def Obligations.PushesStartTheirBurst : Prop :=
  ∀ (d : Byte) (n : Nat) (s : State),
    (s.rx = none →
      exec (.push d) s =
          .next { s with rx := some { rem := [d], acc := 0, st := .ok }, instream := s.instream ++ [d] } ∧
        (s.cur.burst.length ≠ n → exec (.pushm n) s = .next { s with refused := true }) ∧
        (s.cur.burst.length = n → n = 0 →
          exec (.pushm n) s = .next { s with rsps := s.rsps ++ [(s.cur.agent, { st := .ok, val := 0#32 })] }) ∧
        (s.cur.burst.length = n → n ≠ 0 →
          exec (.pushm n) s =
            .next
              { s with
                rx := some { rem := s.cur.burst, acc := 0, st := .ok }
                instream := s.instream ++ s.cur.burst })) ∧
      (s.rx.isSome = true →
        exec (.push d) s = .next s ∧ exec (.pushm n) s = .next s ∧
          ∀ c : Cmd, c.agent = .rx → s.enabled (.issue c) = false)

/-- 40_fifo_ops.md R112: an accepting micro-step stores the byte at `tail`, advances `tail` and `count`, appends to
Q, moves the burst's record on, and changes nothing else; no other step writes storage. -/
def Obligations.AcceptStoresOneByte : Prop :=
  (∀ (s : State) (b : Byte) (bs : List Byte) (acc : Nat) (st : RxStatus),
    FifoInv s → s.rx = some { rem := b :: bs, acc := acc, st := st } → s.fclosed = false →
    s.count.toNat < s.cfg.depth.toNat →
      ∃ t, rxStep s = .next t ∧ t.mem.read s.tail.toNat = some b ∧
        (∀ a, a ≠ s.tail.toNat → t.mem.read a = s.mem.read a) ∧
        t.tail.toNat = (s.tail.toNat + 1) % s.cfg.depth.toNat ∧ t.count.toNat = s.count.toNat + 1 ∧
        t.queue = s.queue ++ [b] ∧
        (bs ≠ [] → t.rx = some { rem := bs, acc := acc + 1, st := st } ∧ t.rsps = s.rsps) ∧
        (bs = [] → t.rx = none ∧
          t.rsps = s.rsps ++ [(.rx, { st := st.toStatus, val := BitVec.ofNat 32 (acc + 1) })]) ∧
        t = { s with
              mem := t.mem
              tail := t.tail
              count := t.count
              accepted := s.accepted ++ [b]
              rx := t.rx
              rsps := t.rsps }) ∧
    ∀ s t : State, step s = .next t → t.mem ≠ s.mem →
      s.nextMove = .rxStep ∧ s.fclosed = false ∧ s.count.toNat < s.cfg.depth.toNat

/-- 40_fifo_ops.md R113: under DROP a push at a full open FIFO sets the sticky mark, loses the byte, and leaves
storage, indices and count alone; the burst's outcome becomes OVERFLOW unless it is worse already. -/
def Obligations.DropAtFullSetsOverflow : Prop :=
  ∀ (s : State) (b : Byte) (bs : List Byte) (acc : Nat) (st : RxStatus),
    s.rx = some { rem := b :: bs, acc := acc, st := st } → s.cfg.policy = .drop → s.fclosed = false →
    s.count = s.cfg.depth →
      (bs ≠ [] →
        rxStep s =
          .next
            { s with
              ovf := true
              rx := some { rem := bs, acc := acc, st := if st = .ok then .overflow else st } }) ∧
        (bs = [] →
          rxStep s =
            .next
              { s with
                ovf := true
                rx := none
                rsps :=
                  s.rsps ++
                    [(.rx, { st := if st = .channelClosed then .channelClosed else .overflow
                             val := BitVec.ofNat 32 acc })] })

/-- 40_fifo_ops.md R114: under BLOCK a push at a full open FIFO leaves RX no enabled step, neither the micro-step nor a
new issue (R116; for RX's illegal words the model's choice, log 26); a POP that returns a byte lets the next push1
accept, and a close makes it reject. That the move of a step that is not enabled changes nothing but the schedule is the
model's choice (log 1). -/
def Obligations.BlockAtFullHolds : Prop :=
  ∀ (s : State) (b : Byte) (bs : List Byte) (acc : Nat) (st : RxStatus),
    FifoInv s → s.rx = some { rem := b :: bs, acc := acc, st := st } → s.cfg.policy = .block →
    s.fclosed = false → s.count = s.cfg.depth →
      s.enabled .rxStep = false ∧ (∀ c : Cmd, c.agent = .rx → s.enabled (.issue c) = false) ∧
        (s.nextMove = .rxStep → step s = .next s.advance) ∧
        (∀ c t, s.fifoPop = .byte c t → t.enabled .rxStep = true ∧ t.push1 = .accept) ∧
        s.closeFifo.enabled .rxStep = true ∧ s.closeFifo.push1 = .rejectClosed

/-- 40_fifo_ops.md R111 and R116: at a closed FIFO, full or not, the burst in flight ends with CHANNEL_CLOSED and the
count of bytes accepted before; nothing else changes. -/
def Obligations.PushAtClosedRejects : Prop :=
  ∀ (s : State) (b : Byte) (bs : List Byte) (acc : Nat) (st : RxStatus),
    s.rx = some { rem := b :: bs, acc := acc, st := st } → s.fclosed = true →
      rxStep s =
        .next
          { s with
            rx := none
            rsps := s.rsps ++ [(.rx, { st := .channelClosed, val := BitVec.ofNat 32 acc })] }

/-- 40_fifo_ops.md R116: an uninterrupted burst of N bytes that fits takes N micro-steps, appends its bytes in order
and answers (OK, 0, N). -/
def Obligations.BurstCompletesWithSpace : Prop :=
  ∀ (n : Nat) (s : State), FifoInv s → s.rx = none → s.fclosed = false → s.cur.burst.length = n → 0 < n →
    s.count.toNat + n ≤ s.cfg.depth.toNat →
      ∃ u t, exec (.pushm n) s = .next u ∧ rxSteps n u = .next t ∧ t.queue = s.queue ++ s.cur.burst ∧
        t.rx = none ∧ t.count.toNat = s.count.toNat + n ∧
        t.rsps = s.rsps ++ [(.rx, { st := .ok, val := BitVec.ofNat 32 n })]

/-- 40_fifo_ops.md R118: POP at a nonempty FIFO, closed or open, reads the oldest byte at `head`, advances `head`,
lowers `count`, and answers the byte zero-extended; storage and everything else stay. -/
def Obligations.PopReturnsOldestByte : Prop :=
  ∀ (s : State) (b : Byte) (q : List Byte), FifoInv s → s.queue = b :: q →
    ∃ t, exec .pop s = .next t ∧ s.mem.read s.head.toNat = some b ∧
      t.head.toNat = (s.head.toNat + 1) % s.cfg.depth.toNat ∧ t.count.toNat + 1 = s.count.toNat ∧ t.queue = q ∧
      t = { s with
            head := t.head
            count := t.count
            popped := s.popped ++ [b]
            rsps := s.rsps ++ [(s.cur.agent, { st := .ok, val := b.setWidth 32 })] }

/-- 40_fifo_ops.md R119: POP at an empty closed FIFO answers CHANNEL_CLOSED and leaves the FIFO alone; an empty
closed FIFO stays empty and closed, so every later POP gives the same result. -/
def Obligations.PopAtClosedEmptyReportsClosed : Prop :=
  (∀ s : State, s.count = 0#16 → s.fclosed = true →
    exec .pop s = .next { s with rsps := s.rsps ++ [(s.cur.agent, { st := .channelClosed, val := 0#32 })] }) ∧
    ∀ s t : State, step s = .next t → s.count = 0#16 → s.fclosed = true → t.count = 0#16 ∧ t.fclosed = true

/-- 40_fifo_ops.md R120: POP at an empty open FIFO holds; the consumer's held POP has no enabled step until a byte is
accepted, which it then returns, or the FIFO is closed, which makes it answer CHANNEL_CLOSED. R122, "Hold: never": the
stand-alone consumer may present FCLOSE while its POP is held, and no second POP (R123). (The stand-alone consumer, and
that its held POP stands in `ownPop`, are the model's choice, log 5.) -/
def Obligations.PopAtOpenEmptyHolds : Prop :=
  ∀ s : State, FifoInv s → s.count = 0#16 → s.fclosed = false →
    exec .pop s = .next { s with ownPop := some s.cur.agent } ∧ s.enabled .ownStep = false ∧
      (∀ (a : Issuer) (b : Byte) (t : State), s.ownPop = some a → t.ownPop = some a → FifoInv t → t.queue = [b] →
        t.enabled .ownStep = true ∧
          ∃ u, ownStep t = .next u ∧ u.ownPop = none ∧ u.queue = [] ∧
            u.rsps = t.rsps ++ [(a, { st := .ok, val := b.setWidth 32 })]) ∧
      ∀ a : Issuer, s.ownPop = some a →
        s.closeFifo.enabled .ownStep = true ∧
          ownStep s.closeFifo =
            .next
              { s with
                fclosed := true
                ownPop := none
                rsps := s.rsps ++ [(a, { st := .channelClosed, val := 0#32 })] } ∧
          ∀ c : Cmd, c.agent = .own → s.cfg.standalone = true →
            (c.cw = encode .fclose → s.enabled (.issue c) = true) ∧
              (c.cw = encode .pop → s.enabled (.issue c) = false)

/-- 40_fifo_ops.md R122: FCLOSE sets the closed mark, answers (OK, 0, 0) and changes nothing else (the content stays
poppable); a second FCLOSE changes nothing but the responses. -/
def Obligations.FcloseSetsClosedMark : Prop :=
  ∀ s : State,
    exec .fclose s =
        .next { s with fclosed := true, rsps := s.rsps ++ [(s.cur.agent, { st := .ok, val := 0#32 })] } ∧
      s.closeFifo.queue = s.queue ∧ s.closeFifo.closeFifo = s.closeFifo

/-- 40_fifo_ops.md R124 with R111, R117, R180 and 00_scope.md R12 ("hold"): in every state that meets the FIFO
invariant, a held push, a held POP and a typed read are enabled exactly when the FIFO allows them, so the hold is
lifted in the very next state; and a move that is not enabled changes nothing but the model's own schedule (log 1).
10_state.md R34 and 70_reset_and_hazards.md R272: an APP agent held in CONNECT or in a typed read may issue no command,
neither CLOSE nor CANCEL, and an idle one of the whole block (the stand-alone flag is the model's, log 5) may issue
any. 60_exceptions.md R231, R236 and D33: in the whole block RX may present a burst exactly while the handle is present
and no burst is in flight (that the same holds of RX's other words is the model's choice, log 26), and HOST may present
CLOSE and CANCEL at any time (that it presents nothing else is log 16). The stand-alone FIFO, in which RX needs no
handle, the consumer without a held POP may present any word, and no APP or HOST command is presented, is the model's
choice (log 5). -/
def Obligations.HoldsLiftAtOnce : Prop :=
  (∀ s : State, FifoInv s →
    (s.enabled .readStep = true ↔ s.rd.isSome = true ∧ (s.queue ≠ [] ∨ s.fclosed = true)) ∧
      (s.enabled .ownStep = true ↔ s.ownPop.isSome = true ∧ (s.queue ≠ [] ∨ s.fclosed = true)) ∧
      (s.enabled .rxStep = true ↔
        s.pending ≠ [] ∧ (s.fclosed = true ∨ s.queue.length < s.cfg.depth.toNat ∨ s.cfg.policy = .drop))) ∧
    (∀ s : State, s.advance.enabled s.nextMove = false →
      step s = .next { s with sched := s.sched.tail, tick := s.tick + 1 }) ∧
    (∀ (s : State) (k : Nat) (c : Cmd), c.agent = .app k →
      (s.connCaller = some (.app k) ∨ s.rd.map ReadRec.agent = some (.app k) → s.enabled (.issue c) = false) ∧
        (s.connCaller ≠ some (.app k) → s.rd.map ReadRec.agent ≠ some (.app k) → k < s.cfg.nApp →
          s.cfg.standalone = false → s.enabled (.issue c) = true)) ∧
    ∀ (s : State) (c : Cmd),
      (s.cfg.standalone = false →
        (c.agent = .rx → (s.enabled (.issue c) = true ↔ s.handle = true ∧ s.rx = none)) ∧
          (c.agent = .host → (s.enabled (.issue c) = true ↔ c.cw = encode .close ∨ c.cw = encode .cancel))) ∧
        (s.cfg.standalone = true →
          (c.agent = .rx → (s.enabled (.issue c) = true ↔ s.rx = none)) ∧
            (c.agent = .own → s.ownPop = none → s.enabled (.issue c) = true) ∧
            ((∃ k, c.agent = .app k) ∨ c.agent = .host → s.enabled (.issue c) = false))

/-! ### Invariants -/

/-- 10_state.md R26: the FIFO invariants (I-a), (I-b), (I-c), the storage bounds and the canonical form of storage
are kept by every step. -/
def Obligations.StepKeepsFifoInvariant : Prop :=
  ∀ s t : State, FifoInv s → step s = .next t → FifoInv t

/-- 20_memory.md R61: the accepted bytes stay the popped bytes followed by the content. The next clause ties A and P
to the machine: a step that changes A appends the byte RX pushed, and a step that changes P appends the oldest
byte. -/
def Obligations.StepKeepsFifoOrder : Prop :=
  ∀ s t : State, FifoInv s → FifoOrder s → step s = .next t →
    FifoOrder t ∧
      (t.accepted = s.accepted ∨
        ∃ b, s.nextMove = .rxStep ∧ s.pending.head? = some b ∧ t.accepted = s.accepted ++ [b]) ∧
      (t.popped = s.popped ∨ ∃ b, s.queue.head? = some b ∧ t.popped = s.popped ++ [b])

/-- 20_memory.md R62: the accepted bytes and those still to be pushed are the in-stream, in its order, with the
rejected bytes removed. The last clause says which bytes are rejected: every step that does not keep all of them is a
micro-step of RX at a closed FIFO, or it drops one byte of the burst under DROP at a full FIFO. With it, what
10_state.md R28, R33 and 40_fifo_ops.md R125 (c) say of the burst in flight: it is never empty, counts at most 4095
bytes, and OVF is never set under BLOCK. -/
def Obligations.StepKeepsArrivalOrder : Prop :=
  ∀ s t : State, BurstInv s → ArrivalInv s → step s = .next t →
    BurstInv t ∧ ArrivalInv t ∧
      ∃ new, t.instream = s.instream ++ new ∧
        (t.accepted ++ t.pending = s.accepted ++ s.pending ++ new ∨
          (s.nextMove = .rxStep ∧ new = [] ∧ t.accepted = s.accepted ∧
            (s.fclosed = true ∧ t.pending = [] ∨
              s.fclosed = false ∧ s.cfg.policy = .drop ∧ s.cfg.depth.toNat ≤ s.count.toNat ∧
                ∃ b, s.pending = b :: t.pending)))

/-- 10_state.md R23, R29, R37: the legal (link, phase) pairs and what the Link Controller's records say of each other
are kept by every step; so are the roles of 60_exceptions.md R233 (in the whole block the FIFO is closed exactly in
CLOSED, 41_link_control.md R149, and held agents are APP agents that exist). The stand-alone flag is the model's
choice, log 5. -/
def Obligations.StepKeepsLinkInvariant : Prop :=
  ∀ s t : State, LinkInv s → RoleInv s → step s = .next t → LinkInv t ∧ RoleInv t

/-- All invariants hold right after reset, for every legal parameter set and DEBUG input (70_reset_and_hazards.md
R260). -/
def Obligations.ResetIsSafe : Prop :=
  ∀ (p : Params) (debug : Bool), p.wf = true → Safe (State.resetWith p debug)

/-- In every state that meets the FIFO invariant a step answers a next state: an error is a response (60_exceptions.md
R220) and no handler runs (R228). That a REFUSED command does not stop the block either is the model's choice (R224
says only that the mark is set and there is no response, R265 that the model says nothing of what follows; log 6), and so
is the next state of a move that is not enabled (log 1). -/
def Obligations.StepNeverStops : Prop :=
  ∀ s : State, FifoInv s → ∃ t, step s = .next t

/-- 00_scope.md R7 (FIFO_DEPTH), R8 (OVERFLOW_POLICY), 70_reset_and_hazards.md R260 (N_APP, BAUD and the named
constants) and 10_state.md R29 (DEBUG), R31 (CONFIG): the parameters and DEBUG never change, and CONFIG is constant.
`cfg` also holds the stand-alone flag, which is the model's choice (log 5). -/
def Obligations.ParametersNeverChange : Prop :=
  ∀ s t : State, step s = .next t → t.cfg = s.cfg ∧ t.debug = s.debug ∧ t.configWord = s.configWord

/-- 10_state.md R27, R28, R36: only reset clears the closed mark, the overflow mark and the refusal mark; and
41_link_control.md R160: CLOSED is never left. -/
def Obligations.MarksAreSticky : Prop :=
  ∀ s t : State, LinkInv s → step s = .next t →
    (s.fclosed = true → t.fclosed = true) ∧ (s.ovf = true → t.ovf = true) ∧
      (s.refused = true → t.refused = true) ∧ (s.link = .closed → t.link = .closed ∧ t.handle = false)

/-- 43_typed_write.md R206 and 20_memory.md R56 (d), R63: a step appends to the transport history, makes at most one
write call, and never takes back a byte of the wire. -/
def Obligations.AtMostOneWritePerStep : Prop :=
  ∀ s t : State, step s = .next t →
    ∃ es, t.tev = s.tev ++ es ∧ es.countP TEvent.isWrite ≤ 1 ∧ ∃ bs, wire t.tev = wire s.tev ++ bs

/-! ### Reset, status and configuration -/

/-- 70_reset_and_hazards.md R260: every state element after reset, for every parameter set and DEBUG input (the value
of CONFIG for the default MAX_ATTEMPTS and MAX_CMD); in the whole block (the stand-alone flag is the model's, log 5) RX
can deliver no burst yet (that it presents no other word either is the model's choice, log 26). 00_scope.md R6, R18: the defaults of the named constants, whatever the other parameters. -/
def Obligations.ResetValues : Prop :=
  (∀ (p : Params) (debug : Bool), p.wf = true →
    let s := State.resetWith p debug
    s.cfg = p ∧ s.phase = .idle ∧ s.link = .unopened ∧ (∀ a, s.mem.read a = none) ∧ s.head = 0#16 ∧
      s.tail = 0#16 ∧ s.count = 0#16 ∧ s.queue = [] ∧ s.fclosed = false ∧ s.ovf = false ∧ s.handle = false ∧
      s.attempt = 0#2 ∧ s.polls = 0 ∧ s.cancelReq = false ∧ s.connCaller = none ∧ s.connResult = none ∧
      s.debug = debug ∧ s.rd = none ∧ s.rx = none ∧ (∀ a, s.isHeld a = false) ∧ s.tev = [] ∧
      s.refused = false ∧ s.tmr = none ∧ s.statusWord = (if debug then 0x00000401#32 else 0x00000001#32) ∧
      (p.maxAttempts = 2#2 → p.maxCmd = 26#5 →
        s.configWord =
          0x00B40000#32 ||| (BitVec.setWidth 32 (policyCode p.policy) <<< 16) ||| p.depth.setWidth 32) ∧
      (p.standalone = false → ∀ c : Cmd, c.agent = .rx → s.enabled (.issue c) = false)) ∧
    ∀ (depth : Half) (policy : Policy) (nApp baud : Nat) (alone : Bool),
      let p : Params := { depth := depth, policy := policy, nApp := nApp, baud := baud, standalone := alone }
      p.startOp = 0x80#8 ∧ p.queryOp = 0x8E#8 ∧ p.modePkt = 0x23#8 ∧ p.passive = 0x01#8 ∧ p.maxCmd = 26#5 ∧
        p.maxAttempts = 2#2 ∧ p.scratchSize = 26 ∧ p.pollDelayMs = 100 ∧ p.cooldownMs = 2500

/-- 10_state.md R30, R31: every field of STATUS and of CONFIG, in every state, and STATUS at reset; with the numbers
of `link` (R22) and `phase` (R21). MAX_CMD and MAX_ATTEMPTS read as the instance's (26 and 2 by default). -/
def Obligations.StatusAndConfigFields : Prop :=
  (∀ s : State,
    (s.statusWord.getLsbD 0 = true ↔ s.count = 0#16) ∧ (s.statusWord.getLsbD 1 = true ↔ s.count = s.cfg.depth) ∧
      s.statusWord.getLsbD 2 = s.fclosed ∧
      s.statusWord.getLsbD 3 = (if s.cfg.policy = .block then false else s.ovf) ∧
      s.statusWord.extractLsb' 4 3 = s.link.code ∧ s.statusWord.extractLsb' 7 3 = s.phase.code ∧
      s.statusWord.getLsbD 10 = s.debug ∧ s.statusWord.getLsbD 11 = s.cancelReq ∧
      s.statusWord.getLsbD 12 = s.handle ∧ s.statusWord.extractLsb' 13 2 = s.attempt ∧
      s.statusWord.getLsbD 15 = s.rd.isSome ∧ s.statusWord.extractLsb' 16 16 = s.count) ∧
    (∀ s : State,
      s.configWord.extractLsb' 0 16 = s.cfg.depth ∧ (s.configWord.getLsbD 16 = true ↔ s.cfg.policy = .drop) ∧
        s.configWord.extractLsb' 17 5 = s.cfg.maxCmd ∧ s.configWord.extractLsb' 22 2 = s.cfg.maxAttempts ∧
        s.configWord.extractLsb' 24 8 = 0#8) ∧
    ([Phase.idle, .openPort, .sendStart, .sendQuery, .delay, .readMode, .cooldown].map Phase.code
        = [0#3, 1#3, 2#3, 3#3, 4#3, 5#3, 6#3] ∧
      [LinkState.unopened, .opening, .handshaking, .ready, .closed].map LinkState.code
        = [0#3, 1#3, 2#3, 3#3, 4#3]) ∧
    ∀ (p : Params) (debug : Bool), p.wf = true →
      (State.resetWith p debug).statusWord = if debug then 0x00000401#32 else 0x00000001#32

/-- 30_encoding.md R90 to R92: the packed response, the tables of the ST and CA codes as numbers, and that distinct
responses pack differently. -/
def Obligations.ResponsePacking : Prop :=
  ([Status.ok, .transportOpen, .channelClosed, .invalidArgument, .transportIo, .illegalCommand, .overflow].map
        (fun st => (st.stCode, st.caCode))
      = [(0#4, 0#4), (1#4, 0#4), (3#4, 0#4), (4#4, 0#4), (5#4, 0#4), (6#4, 0#4), (7#4, 0#4)] ∧
    [Cause.attemptsExhausted, .cancelled, .closed].map
        (fun c => ((Status.connectionFailed c).stCode, (Status.connectionFailed c).caCode))
      = [(2#4, 0#4), (2#4, 1#4), (2#4, 2#4)]) ∧
  (∀ r : Rsp,
    r.pack.extractLsb' 36 4 = r.st.stCode ∧ r.pack.extractLsb' 32 4 = r.st.caCode ∧
      r.pack.extractLsb' 0 32 = r.val ∧ r.st.stCode.toNat ≤ 7 ∧ r.st.caCode.toNat ≤ 2 ∧
      (r.st.caCode ≠ 0#4 → r.st.stCode = 2#4)) ∧
    ∀ r r' : Rsp, r.pack = r'.pack → r = r'

/-! ### The Link Controller -/

/-- 41_link_control.md R141: CONNECT from UNOPENED starts the first attempt and holds its caller. -/
def Obligations.ConnectStartsFromUnopened : Prop :=
  ∀ s : State, s.link = .unopened →
    exec .connect s =
      .next
        { s with
          link := .opening
          phase := .openPort
          attempt := 1#2
          polls := 0
          cancelReq := false
          connCaller := some s.cur.agent
          connResult := none }

/-- 41_link_control.md R142: CONNECT in READY answers (OK, 0, 0) and changes nothing; in OPENING, HANDSHAKING and
CLOSED it is REFUSED. That a refused CONNECT answers a next state with the mark set and nothing else changed is the
model's choice (log 6). -/
def Obligations.ConnectOutsideUnopened : Prop :=
  ∀ s : State,
    (s.link = .ready →
      exec .connect s = .next { s with rsps := s.rsps ++ [(s.cur.agent, { st := .ok, val := 0#32 })] }) ∧
      (s.link = .opening ∨ s.link = .handshaking ∨ s.link = .closed →
        exec .connect s = .next { s with refused := true })

/-- 41_link_control.md R143: the held agent's completion step is enabled exactly when a result is posted, delivers
it, and the result is (OK, 0, 0) in READY and the posted error otherwise. -/
def Obligations.ConnectCompletion : Prop :=
  ∀ (s : State) (a : Issuer), LinkInv s → s.connCaller = some a →
    (s.enabled .connDone = true ↔ s.connResult ≠ none) ∧
      ∀ r : Rsp, s.connResult = some r →
        connDone s = .next { s with connCaller := none, connResult := none, rsps := s.rsps ++ [(a, r)] } ∧
          (s.link = .ready → r = { st := .ok, val := 0#32 }) ∧
          (s.link ≠ .ready → r.val = 0#32 ∧ (r.st = .transportOpen ∨ ∃ c, r.st = .connectionFailed c))

/-- 41_link_control.md R144: which steps of SEQ and TMR are enabled in which phase. -/
def Obligations.SequencerDiscipline : Prop :=
  ∀ (s : State) (answer : Bool) (d : WriteDraw), LinkInv s →
    (s.phase = .idle →
      s.enabled (.seqStep answer d) = false ∧ s.enabled .cancelStep = false ∧ s.enabled .tmrStep = false) ∧
      (s.phase = .openPort ∨ s.phase = .sendStart ∨ s.phase = .sendQuery →
        s.enabled (.seqStep answer d) = true ∧ s.enabled .tmrStep = false ∧
          s.enabled .cancelStep = s.cancelReq) ∧
      (s.phase = .delay ∨ s.phase = .readMode ∨ s.phase = .cooldown →
        (s.cancelReq = true →
          s.enabled .cancelStep = true ∧ s.enabled (.seqStep answer d) = false ∧ s.enabled .tmrStep = false) ∧
          (s.cancelReq = false →
            s.enabled .cancelStep = false ∧
              (s.phase ≠ .readMode → s.enabled (.seqStep answer d) = false ∧ s.enabled .tmrStep = true) ∧
              (s.phase = .readMode →
                s.enabled .tmrStep = false ∧
                  (s.enabled (.seqStep answer d) = true ↔ s.count ≠ 0#16 ∨ s.fclosed = true))))

/-- 41_link_control.md R155: `enter_closed`, field by field; the flush and close change nothing on the wire. -/
def Obligations.EnterClosedEffect : Prop :=
  ∀ (s : State) (res : Option Rsp),
    s.enterClosed res = s.closedWith res ∧ wire (s.enterClosed res).tev = wire s.tev

/-- 41_link_control.md R145: the OPEN step passes (BAUD, 8, none, 1, none), records the answer, and goes to
SEND_START; a failed open enters CLOSED with TRANSPORT_OPEN in every attempt, with no retry. -/
def Obligations.OpenStepEffect : Prop :=
  ∀ (s : State) (d : WriteDraw), s.phase = .openPort → s.link = .opening →
    openParams s.cfg = { baud := s.cfg.baud, dataBits := 8, parity := false, stopBits := 1, flowControl := false } ∧
      seqStep true d s =
        .next
          { s with
            tev := s.tev ++ [TEvent.opened true]
            handle := true
            polls := 0
            link := .handshaking
            phase := .sendStart } ∧
      seqStep false d s =
        .next
          ({ s with tev := s.tev ++ [TEvent.opened false] }.closedWith
            (some { st := .transportOpen, val := 0#32 }))

/-- 41_link_control.md R146, R147: a start or query write that succeeds is one transport write of START_OP (0x80
by default), or of QUERY_OP and MODE_PKT (0x8E, 0x23), and moves the sequencer on; nothing else changes (the scratch
area is unobservable, log 9). -/
def Obligations.HandshakeWritesSucceed : Prop :=
  ∀ (s : State) (answer : Bool),
    (s.phase = .sendStart →
      ∃ t, seqStep answer .ok s = .next t ∧
        t = { s with tev := s.tev ++ [TEvent.write [s.cfg.startOp] 1], phase := .sendQuery, scratch := t.scratch }) ∧
      (s.phase = .sendQuery →
        ∃ t, seqStep answer .ok s = .next t ∧
          t = { s with
                tev := s.tev ++ [TEvent.write [s.cfg.queryOp, s.cfg.modePkt] 2]
                polls := s.polls + 1
                phase := .delay
                tmr := some .poll
                scratch := t.scratch })

/-- 41_link_control.md R151, R152: a failed start or query write, of which k bytes reached the wire, releases the
handle; while attempts are left a cooldown follows, after the last attempt the connect ends with CONNECTION_FAILED /
ATTEMPTS_EXHAUSTED. The FIFO is neither cleared nor closed by a failure that is retried. -/
def Obligations.HandshakeWriteFails : Prop :=
  ∀ (s : State) (answer : Bool) (k : Nat) (bs : List Byte),
    (s.phase = .sendStart ∧ bs = [s.cfg.startOp]) ∨ (s.phase = .sendQuery ∧ bs = [s.cfg.queryOp, s.cfg.modePkt]) → k < bs.length →
      ∃ t, seqStep answer (.fail k) s = .next t ∧
        (s.attempt.toNat < s.cfg.maxAttempts.toNat →
          t = { s with
                tev := s.tev ++ [TEvent.write bs k, TEvent.close]
                handle := false
                link := .opening
                phase := .cooldown
                tmr := some .cooldown
                scratch := t.scratch }) ∧
        (s.cfg.maxAttempts.toNat ≤ s.attempt.toNat →
          t = { s with
                tev := s.tev ++ [TEvent.write bs k, TEvent.close]
                handle := false
                scratch := t.scratch }.closedWith
                (some { st := .connectionFailed .attemptsExhausted, val := 0#32 }))

/-- 41_link_control.md R148, R153: the ends of the two delays. -/
def Obligations.DelayEnds : Prop :=
  ∀ s : State,
    (s.phase = .delay → s.tmr = some .poll → s.cancelReq = false →
      s.enabled .tmrStep = true ∧ tmrStep s = .next { s with tmr := none, phase := .readMode }) ∧
      (s.phase = .cooldown → s.tmr = some .cooldown → s.cancelReq = false →
        s.enabled .tmrStep = true ∧
          tmrStep s = .next { s with tmr := none, attempt := s.attempt + 1#2, phase := .openPort })

/-- 41_link_control.md R149, R150: the mode read takes the oldest byte; PASSIVE (0x01 by default) makes the link
READY and posts OK, any other byte gives another poll; the byte is consumed either way. -/
def Obligations.ModeReadDecides : Prop :=
  ∀ (s : State) (b : Byte) (q : List Byte) (answer : Bool) (d : WriteDraw),
    FifoInv s → s.phase = .readMode → s.cancelReq = false → s.queue = b :: q →
      ∃ t, s.enabled (.seqStep answer d) = true ∧ seqStep answer d s = .next t ∧ t.queue = q ∧
        (b = s.cfg.passive →
          t = { s with
                head := t.head
                count := t.count
                popped := s.popped ++ [b]
                link := .ready
                phase := .idle
                connResult := some { st := .ok, val := 0#32 } }) ∧
        (b ≠ s.cfg.passive →
          t = { s with head := t.head, count := t.count, popped := s.popped ++ [b], phase := .sendQuery })

/-- 41_link_control.md R157: one round of the poll loop with a mode byte that is not PASSIVE: query sent, delay
ended, byte popped, back in SEND_QUERY with one more poll counted. So no bound on the rounds exists. -/
def Obligations.PollRoundRepeats : Prop :=
  ∀ (s : State) (b : Byte) (q : List Byte) (a₁ a₂ : Bool) (d₂ : WriteDraw),
    FifoInv s → s.link = .handshaking → s.phase = .sendQuery → s.cancelReq = false → s.queue = b :: q →
    b ≠ s.cfg.passive →
      ∃ t u v, seqStep a₁ .ok s = .next t ∧ tmrStep t = .next u ∧ seqStep a₂ d₂ u = .next v ∧
        v.link = .handshaking ∧ v.phase = .sendQuery ∧ v.cancelReq = false ∧ v.polls = s.polls + 1 ∧
        v.queue = q ∧ FifoInv v ∧ v.tev = s.tev ++ [TEvent.write [s.cfg.queryOp, s.cfg.modePkt] 2]

/-- 41_link_control.md R154 to R156: CLOSE from every state but CLOSED enters CLOSED and answers (OK, 0, 0); a connect
in progress ends with CONNECTION_FAILED / CLOSED, and from UNOPENED or READY nothing is posted (see log 14). In CLOSED
it answers (OK, 0, 0) and changes nothing. -/
def Obligations.CloseEntersClosed : Prop :=
  ∀ s : State,
    (s.link = .opening ∨ s.link = .handshaking →
      exec .close s =
        .next
          { s.closedWith (some { st := .connectionFailed .closed, val := 0#32 }) with
            rsps := s.rsps ++ [(s.cur.agent, { st := .ok, val := 0#32 })] }) ∧
      (s.link = .unopened ∨ s.link = .ready →
        exec .close s =
          .next
            { s.closedWith none with rsps := s.rsps ++ [(s.cur.agent, { st := .ok, val := 0#32 })] }) ∧
      (s.link = .closed →
        exec .close s = .next { s with rsps := s.rsps ++ [(s.cur.agent, { st := .ok, val := 0#32 })] })

/-- 41_link_control.md R158: CANCEL registers a request while a connect is in progress and answers 1; otherwise it
answers 0 and changes nothing. -/
def Obligations.CancelRegisters : Prop :=
  ∀ s : State,
    (s.link = .opening ∨ s.link = .handshaking →
      exec .cancel s =
        .next { s with cancelReq := true, rsps := s.rsps ++ [(s.cur.agent, { st := .ok, val := 1#32 })] }) ∧
      (s.link = .unopened ∨ s.link = .ready ∨ s.link = .closed →
        exec .cancel s = .next { s with rsps := s.rsps ++ [(s.cur.agent, { st := .ok, val := 0#32 })] })

/-- 41_link_control.md R159: the cancel step is enabled exactly with a request pending and a connect in progress, and
ends the connect with CONNECTION_FAILED / CANCELLED. -/
def Obligations.CancelStepEndsConnect : Prop :=
  ∀ s : State,
    (s.enabled .cancelStep = true ↔ s.cancelReq = true ∧ (s.link = .opening ∨ s.link = .handshaking)) ∧
      cancelStep s = .next (s.closedWith (some { st := .connectionFailed .cancelled, val := 0#32 }))

/-- 41_link_control.md R158: once CANCEL has answered 1, no step makes the link READY, and the request stays until
the link is CLOSED. -/
def Obligations.CancelPreventsReady : Prop :=
  ∀ s t : State, s.cancelReq = true → s.link = .opening ∨ s.link = .handshaking → step s = .next t →
    t.link = .closed ∨ (t.cancelReq = true ∧ (t.link = .opening ∨ t.link = .handshaking))

/-- 41_link_control.md R160: every step that changes (link, phase) is a row of the transition table, with the row's
event; a retry needs an attempt to be left, and exhaustion needs none left. -/
def Obligations.TransitionsAreInTable : Prop :=
  ∀ s t : State, FifoInv s → LinkInv s → RoleInv s → step s = .next t →
    (t.link, t.phase) ≠ (s.link, s.phase) →
      ∃ e, s.linkEvent s.nextMove = some e ∧
        { source := (s.link, s.phase), event := e, target := (t.link, t.phase) : Transition } ∈ transitionTable ∧
        (e = .writeFails → (t.link = .opening ↔ s.attempt.toNat < s.cfg.maxAttempts.toNat)) ∧
        (e = .tmr → s.phase = .cooldown → t.attempt.toNat = s.attempt.toNat + 1)

/-- 20_memory.md R66 (c): under weak fairness of TMR and of the cancel step, the sequencer does not stay in a delay
for ever. -/
def Obligations.DelayEndsUnderFairness : Prop :=
  ∀ (moves : Nat → Move) (run : Nat → State), IsRun moves run → (∀ n, LinkInv (run n)) →
    WeaklyFair moves run (· = .tmrStep) → WeaklyFair moves run (· = .cancelStep) →
      ∀ n, (run n).phase = .delay ∨ (run n).phase = .cooldown →
        ∃ m, n < m ∧ (run m).phase ≠ (run n).phase

/-! ### Typed reads -/

/-- 42_typed_read.md R180: in READY or CLOSED, with no read in flight, each typed read becomes the read in flight;
nothing else changes. -/
def Obligations.TypedReadStarts : Prop :=
  ∀ (i : Instr) (k : ReadKind) (s : State), readKindOf i = some k → s.link = .ready ∨ s.link = .closed →
    s.rd = none →
      exec i s = .next { s with rd := some { agent := s.cur.agent, kind := k, hi := none } }

/-- 42_typed_read.md R186, R187 and 43_typed_write.md R207: a typed read or write before READY, or a typed read while
another is in flight, is REFUSED: the mark is set, and neither the FIFO nor the transport changes. That the refused
command answers a next state in which nothing else changes is the model's choice (log 6). -/
def Obligations.TypedCommandsRefused : Prop :=
  ∀ (i : Instr) (s : State),
    (readKindOf i ≠ none ∨ s.writeCheck i ≠ none) ∧
          (s.link = .unopened ∨ s.link = .opening ∨ s.link = .handshaking) ∨
        readKindOf i ≠ none ∧ s.rd ≠ none →
      exec i s = .next { s with refused := true }

/-- 42_typed_read.md R181, R182: RDS8 and RDU8 at a nonempty FIFO, with their pop step, take the oldest byte and
answer it sign-extended or zero-extended. -/
def Obligations.ByteReadsComplete : Prop :=
  ∀ (s : State) (b : Byte) (q : List Byte), FifoInv s → s.link = .ready ∨ s.link = .closed → s.rd = none →
    s.queue = b :: q →
      (∃ u t, exec .rds8 s = .next u ∧ readStep u = .next t ∧ t.queue = q ∧
        t = { s with
              head := t.head
              count := t.count
              popped := s.popped ++ [b]
              rsps := s.rsps ++ [(s.cur.agent, { st := .ok, val := BitVec.ofInt 32 b.toInt })] }) ∧
        ∃ u t, exec .rdu8 s = .next u ∧ readStep u = .next t ∧ t.queue = q ∧
          t = { s with
                head := t.head
                count := t.count
                popped := s.popped ++ [b]
                rsps := s.rsps ++ [(s.cur.agent, { st := .ok, val := BitVec.ofNat 32 b.toNat })] }

/-- 42_typed_read.md R183, R184 and 20_memory.md R52: RDS16 and RDU16 take two bytes in two pop steps, the first is
the high byte, and answer the word sign-extended or zero-extended. -/
def Obligations.WordReadsComplete : Prop :=
  ∀ (s : State) (hi lo : Byte) (q : List Byte), FifoInv s → s.link = .ready ∨ s.link = .closed → s.rd = none →
    s.queue = hi :: lo :: q →
      (∃ u v t, exec .rds16 s = .next u ∧ readStep u = .next v ∧ readStep v = .next t ∧
        v.rd = some { agent := s.cur.agent, kind := .s16, hi := some hi } ∧ v.rsps = s.rsps ∧ t.queue = q ∧
        t = { s with
              head := t.head
              count := t.count
              popped := s.popped ++ [hi, lo]
              rsps := s.rsps ++ [(s.cur.agent, { st := .ok, val := BitVec.ofInt 32 (hi ++ lo).toInt })] }) ∧
        ∃ u v t, exec .rdu16 s = .next u ∧ readStep u = .next v ∧ readStep v = .next t ∧
          v.rd = some { agent := s.cur.agent, kind := .u16, hi := some hi } ∧ v.rsps = s.rsps ∧ t.queue = q ∧
          t = { s with
                head := t.head
                count := t.count
                popped := s.popped ++ [hi, lo]
                rsps :=
                  s.rsps ++ [(s.cur.agent, { st := .ok, val := BitVec.ofNat 32 (256 * hi.toNat + lo.toNat) })] }

/-- 42_typed_read.md R185: at the second pop of a 16-bit read, an empty closed FIFO ends the read with
CHANNEL_CLOSED and the high byte is lost; a byte that remains at close is taken. -/
def Obligations.CloseSplitsWordRead : Prop :=
  ∀ (s : State) (a : Issuer) (k : ReadKind) (hi : Byte), k = .s16 ∨ k = .u16 →
    s.rd = some { agent := a, kind := k, hi := some hi } → s.fclosed = true →
      (s.count = 0#16 →
        readStep s =
          .next { s with rd := none, rsps := s.rsps ++ [(a, { st := .channelClosed, val := 0#32 })] }) ∧
        ∀ (lo : Byte) (q : List Byte), FifoInv s → s.queue = lo :: q →
          ∃ (t : State) (v : Word), readStep s = .next t ∧ t.rd = none ∧ t.queue = q ∧
            t.rsps = s.rsps ++ [(a, { st := .ok, val := v })] ∧ BitVec.setWidth 16 v = joinBytes hi lo

/-- 42_typed_read.md R180 to R185, R188 (a), the pop step of any read in flight, of whichever agent and however long it
was held: with a byte in the FIFO it takes the oldest one and answers it extended by its kind, or keeps it as the high
byte; at an empty closed FIFO it answers CHANNEL_CLOSED; at an empty open FIFO it has no enabled step, and another
agent's CLOSE in READY releases it with CHANNEL_CLOSED. -/
def Obligations.HeldReadStep : Prop :=
  ∀ (s : State) (a : Issuer) (k : ReadKind) (h : Option Byte),
    s.rd = some { agent := a, kind := k, hi := h } →
      (∀ (b : Byte) (q : List Byte), FifoInv s → s.queue = b :: q →
        ∃ t, s.enabled .readStep = true ∧ readStep s = .next t ∧ t.queue = q ∧
          t = { s with
                head := t.head
                count := t.count
                popped := s.popped ++ [b]
                rd := t.rd
                rsps := t.rsps } ∧
          (k = .s8 → t.rd = none ∧
            t.rsps = s.rsps ++ [(a, { st := .ok, val := BitVec.ofInt 32 b.toInt })]) ∧
          (k = .u8 → t.rd = none ∧
            t.rsps = s.rsps ++ [(a, { st := .ok, val := BitVec.ofNat 32 b.toNat })]) ∧
          (k = .s16 ∨ k = .u16 → h = none →
            t.rd = some { agent := a, kind := k, hi := some b } ∧ t.rsps = s.rsps) ∧
          (∀ hi, k = .s16 → h = some hi → t.rd = none ∧
            t.rsps = s.rsps ++ [(a, { st := .ok, val := BitVec.ofInt 32 (hi ++ b).toInt })]) ∧
          ∀ hi, k = .u16 → h = some hi → t.rd = none ∧
            t.rsps = s.rsps ++ [(a, { st := .ok, val := BitVec.ofNat 32 (256 * hi.toNat + b.toNat) })]) ∧
        (s.count = 0#16 → s.fclosed = true →
          s.enabled .readStep = true ∧
            readStep s = .next { s with rd := none, rsps := s.rsps ++ [(a, { st := .channelClosed, val := 0#32 })] }) ∧
        (s.count = 0#16 → s.fclosed = false → s.enabled .readStep = false) ∧
        (s.count = 0#16 → s.link = .ready →
          ∃ u t, exec .close s = .next u ∧ u.enabled .readStep = true ∧ readStep u = .next t ∧ t.rd = none ∧
            t.rsps = s.rsps ++
              [(s.cur.agent, { st := .ok, val := 0#32 }), (a, { st := .channelClosed, val := 0#32 })])

/-- 42_typed_read.md R188: a typed read issued in CLOSED with an empty FIFO is not refused and its next step answers
CHANNEL_CLOSED without holding. -/
def Obligations.ReadInClosedEmptyAnswers : Prop :=
  ∀ (i : Instr) (k : ReadKind) (s : State), readKindOf i = some k → RoleInv s → s.cfg.standalone = false →
    s.link = .closed → s.rd = none → s.count = 0#16 →
      ∃ u, exec i s = .next u ∧ u.enabled .readStep = true ∧
        readStep u = .next { s with rsps := s.rsps ++ [(s.cur.agent, { st := .channelClosed, val := 0#32 })] }

/-- 42_typed_read.md R189: signed and unsigned reads agree below the sign bit, differ by 256 or 65536 above it, and
each is a bijection from its byte pattern onto its range; with the examples 0xFF and 0x01. -/
def Obligations.SignedAndUnsignedReads : Prop :=
  ((zextByte 0xFF#8).toInt = 255 ∧ (sextByte 0xFF#8).toInt = -1 ∧ (zextByte 0x01#8).toInt = 1 ∧
      (sextByte 0x01#8).toInt = 1) ∧
    (∀ b : Byte, b.toNat ≤ 0x7F → sextByte b = zextByte b) ∧
    (∀ b : Byte, 0x80 ≤ b.toNat → (zextByte b).toInt = (sextByte b).toInt + 256) ∧
    (∀ w : Half, w.toNat ≤ 0x7FFF → sextHalf w = zextHalf w) ∧
    (∀ w : Half, 0x8000 ≤ w.toNat → (zextHalf w).toInt = (sextHalf w).toInt + 65536) ∧
    (∀ v : Int, (∃ b : Byte, (sextByte b).toInt = v) ↔ -128 ≤ v ∧ v ≤ 127) ∧
    (∀ v : Int, (∃ b : Byte, (zextByte b).toInt = v) ↔ 0 ≤ v ∧ v ≤ 255) ∧
    (∀ v : Int, (∃ hi lo : Byte, (sextHalf (joinBytes hi lo)).toInt = v) ↔ -32768 ≤ v ∧ v ≤ 32767) ∧
    (∀ v : Int, (∃ hi lo : Byte, (zextHalf (joinBytes hi lo)).toInt = v) ↔ 0 ≤ v ∧ v ≤ 65535) ∧
    (∀ b b' : Byte, sextByte b = sextByte b' ∨ zextByte b = zextByte b' → b = b') ∧
    ∀ hi lo hi' lo' : Byte,
      sextHalf (joinBytes hi lo) = sextHalf (joinBytes hi' lo') ∨
        zextHalf (joinBytes hi lo) = zextHalf (joinBytes hi' lo') → hi = hi' ∧ lo = lo'

/-! ### Typed writes -/

/-- 43_typed_write.md R201, R203, R204: in READY, a write whose call succeeds sends its one byte, or its two bytes high
byte first, in one call, and answers the number sent; nothing else changes. -/
def Obligations.ByteAndWordWritesSend : Prop :=
  ∀ s : State, s.link = .ready → s.cur.draw = .ok →
    (∃ t, exec .wrb s = .next t ∧
      t = { s with
            scratch := t.scratch
            tev := s.tev ++ [TEvent.write [s.cur.arg.extractLsb' 0 8] 1]
            rsps := s.rsps ++ [(s.cur.agent, { st := .ok, val := 1#32 })] }) ∧
      ∀ i : Instr,
        (i = .wrs16 ∧ -32768 ≤ s.cur.arg.toInt ∧ s.cur.arg.toInt ≤ 32767) ∨
          (i = .wru16 ∧ 0 ≤ s.cur.arg.toInt ∧ s.cur.arg.toInt ≤ 65535) →
          ∃ t, exec i s = .next t ∧
            t = { s with
                  scratch := t.scratch
                  tev := s.tev ++ [TEvent.write [s.cur.arg.extractLsb' 8 8, s.cur.arg.extractLsb' 0 8] 2]
                  rsps := s.rsps ++ [(s.cur.agent, { st := .ok, val := 2#32 })] }

/-- 43_typed_write.md R202: WRBS in READY, with LEN at most MAX_CMD (26 by default) and a slice inside VALUES, sends the slice's low bytes
in order in one call and answers LEN; LEN = 0 answers 0 and makes no call. -/
def Obligations.SliceWriteSends : Prop :=
  ∀ (s : State) (len start : Nat), s.link = .ready → s.cur.draw = .ok → len ≤ s.cfg.maxCmd.toNat →
    s.cur.arg.toInt = start → start + len ≤ s.cur.values.length →
      ∃ t bs, exec (.wrbs len) s = .next t ∧ bs.length = len ∧
        (∀ j, j < len → bs[j]? = (s.cur.values[start + j]?).map fun v => v.extractLsb' 0 8) ∧
        (len ≠ 0 → t.tev = s.tev ++ [TEvent.write bs len]) ∧ (len = 0 → t.tev = s.tev ∧ t.scratch = s.scratch) ∧
        t = { s with
              scratch := t.scratch
              tev := t.tev
              rsps := s.rsps ++ [(s.cur.agent, { st := .ok, val := BitVec.ofNat 32 len })] }

/-- 43_typed_write.md R202 to R204 and 60_exceptions.md R226, the operand checks: WRBS with LEN above MAX_CMD (26 by
default) or a slice outside VALUES answers INVALID_ARGUMENT in READY and in CLOSED, and sends nothing; a word write
outside its range is REFUSED in every link state (that the refused command answers a next state with the mark set and
nothing else changed is the model's choice, log 6). -/
def Obligations.BadWriteOperands : Prop :=
  (∀ (s : State) (len : Nat), s.link = .ready ∨ s.link = .closed →
    s.cfg.maxCmd.toNat < len ∨ s.cur.arg.toInt < 0 ∨ (s.cur.values.length : Int) < s.cur.arg.toInt + len →
      exec (.wrbs len) s =
        .next { s with rsps := s.rsps ++ [(s.cur.agent, { st := .invalidArgument, val := 0#32 })] }) ∧
    ∀ s : State,
      (s.cur.arg.toInt < -32768 ∨ 32767 < s.cur.arg.toInt → exec .wrs16 s = .next { s with refused := true }) ∧
        (s.cur.arg.toInt < 0 ∨ 65535 < s.cur.arg.toInt → exec .wru16 s = .next { s with refused := true })

/-- 43_typed_write.md R205: a failed call of a typed write in READY records the proper prefix that reached the wire,
for every k below the length that HOST draws, answers TRANSPORT_IO, and changes nothing else: the link stays READY and
nothing is retried (the scratch area is unobservable, log 9). -/
def Obligations.WriteFailureReportsTransportIo : Prop :=
  ∀ (i : Instr) (s : State) (bs : List Byte) (k : Nat),
    s.writeCheck i = some (.send bs) → s.link = .ready → s.cur.draw = .fail k → k < bs.length →
      ∃ t, exec i s = .next t ∧
        t = { s with
              scratch := t.scratch
              tev := s.tev ++ [TEvent.write bs k]
              rsps := s.rsps ++ [(s.cur.agent, { st := .transportIo, val := 0#32 })] }

/-- 43_typed_write.md R208: in CLOSED every typed write whose operands pass their checks answers CHANNEL_CLOSED and
changes nothing else. -/
def Obligations.WriteInClosedReportsClosed : Prop :=
  ∀ (i : Instr) (s : State) (bs : List Byte), s.writeCheck i = some (.send bs) → s.link = .closed →
    exec i s = .next { s with rsps := s.rsps ++ [(s.cur.agent, { st := .channelClosed, val := 0#32 })] }

/-- 43_typed_write.md R209: the bytes WRS16 v or WRU16 v sends, arriving in the FIFO in order, are read back as v by
RDS16 or RDU16, for every v in range. -/
def Obligations.WordWriteReadRoundTrip : Prop :=
  ∀ (v : Int) (w r : Instr),
    (w = .wrs16 ∧ r = .rds16 ∧ -32768 ≤ v ∧ v ≤ 32767) ∨ (w = .wru16 ∧ r = .rdu16 ∧ 0 ≤ v ∧ v ≤ 65535) →
      ∀ s : State, s.link = .ready → s.cur.arg = BitVec.ofInt 32 v → s.cur.draw = .ok →
        ∃ t bs, exec w s = .next t ∧ t.tev = s.tev ++ [TEvent.write bs 2] ∧
          ∀ (x : State) (q : List Byte), FifoInv x → x.link = .ready → x.rd = none → x.queue = bs ++ q →
            ∃ x₁ x₂ x₃ rsp, exec r x = .next x₁ ∧ readStep x₁ = .next x₂ ∧ readStep x₂ = .next x₃ ∧
              x₃.rsps = x.rsps ++ [(x.cur.agent, { st := .ok, val := rsp })] ∧ rsp.toInt = v ∧ x₃.queue = q
end

