-- ==== Sys2Proof/Laws/Decode.lean ====
section
/-! SUPPORT. The fields of a command word and what decoding can answer (30_encoding.md rules R80 to R86). -/

namespace Sys2Proof

theorem opField_append (o : BitVec 4) (y : BitVec 12) : opField (o ++ y) = o := by
  apply BitVec.eq_of_getLsbD_eq
  intro i hi
  rw [opField, BitVec.getLsbD_extractLsb', BitVec.getLsbD_append]
  simp [hi]

theorem low12_append (o : BitVec 4) (y : BitVec 12) : BitVec.extractLsb' 0 12 (o ++ y) = y := by
  apply BitVec.eq_of_getLsbD_eq
  intro i hi
  rw [BitVec.getLsbD_extractLsb', BitVec.getLsbD_append]
  simp [hi]

/-- A command word is its opcode followed by its low twelve bits. -/
theorem word_eq_op_append (w : Half) : w = opField w ++ w.extractLsb' 0 12 := by
  apply BitVec.eq_of_getLsbD_eq
  intro i hi
  rw [BitVec.getLsbD_append]
  simp only [opField, BitVec.getLsbD_extractLsb']
  by_cases h : i < 12
  · simp [h]
  · simp [h, show i - 12 < 4 by omega, show 12 + (i - 12) = i by omega]

/-- Decoding answers a command exactly where the opcode has a row, the port is the row's, and the word matches. -/
theorem decode_command_iff {p : Port} {w : Half} {i : Instr} :
    decode p w = .command i ↔
      ∃ r, rowOf (opField w) = some r ∧ p = r.port ∧ w &&& r.mask = r.mtch ∧ r.operands w = i := by
  unfold decode
  cases hr : rowOf (opField w) with
  | none => simp
  | some r =>
    by_cases hp : p = r.port
    · by_cases hm : w &&& r.mask = r.mtch
      · simp [hp, hm]
      · simp [hp, hm]
    · simp [hp]

/-- Decoding answers illegal exactly where there is no row, the port is another, or the word does not match. -/
theorem decode_illegal_iff {p : Port} {w : Half} :
    (∃ why, decode p w = .illegal why) ↔
      ∀ r, rowOf (opField w) = some r → p ≠ r.port ∨ w &&& r.mask ≠ r.mtch := by
  unfold decode
  cases hr : rowOf (opField w) with
  | none => simp
  | some r =>
    by_cases hp : p = r.port
    · by_cases hm : w &&& r.mask = r.mtch
      · simp [hp, hm]
      · simp [hp, hm]
    · simp [hp]

theorem encode_pushm_opField (n : Nat) : opField (encode (.pushm n)) = 2#4 := opField_append _ _

theorem encode_pushm_nField {n : Nat} (h : n < 4096) : nField (encode (.pushm n)) = n := by
  simp only [nField, encode, low12_append, BitVec.toNat_ofNat]
  omega

end Sys2Proof
end

