-- ==== Sys2Proof/Laws/State.lean ====
section
/-! SUPPORT. One lemma per field per named update of the state, so that no later proof unfolds a record update. -/

namespace Sys2Proof.Machine

@[simp] theorem State.hold_eq (s : State) : s.hold = s := rfl

@[simp] theorem State.respond_cfg (s : State) (a : Issuer) (r : Rsp) : (s.respond a r).cfg = s.cfg := rfl
@[simp] theorem State.respond_debug (s : State) (a : Issuer) (r : Rsp) : (s.respond a r).debug = s.debug := rfl
@[simp] theorem State.respond_mem (s : State) (a : Issuer) (r : Rsp) : (s.respond a r).mem = s.mem := rfl
@[simp] theorem State.respond_head (s : State) (a : Issuer) (r : Rsp) : (s.respond a r).head = s.head := rfl
@[simp] theorem State.respond_tail (s : State) (a : Issuer) (r : Rsp) : (s.respond a r).tail = s.tail := rfl
@[simp] theorem State.respond_count (s : State) (a : Issuer) (r : Rsp) : (s.respond a r).count = s.count := rfl
@[simp] theorem State.respond_fclosed (s : State) (a : Issuer) (r : Rsp) : (s.respond a r).fclosed = s.fclosed := rfl
@[simp] theorem State.respond_ovf (s : State) (a : Issuer) (r : Rsp) : (s.respond a r).ovf = s.ovf := rfl
@[simp] theorem State.respond_phase (s : State) (a : Issuer) (r : Rsp) : (s.respond a r).phase = s.phase := rfl
@[simp] theorem State.respond_link (s : State) (a : Issuer) (r : Rsp) : (s.respond a r).link = s.link := rfl
@[simp] theorem State.respond_handle (s : State) (a : Issuer) (r : Rsp) : (s.respond a r).handle = s.handle := rfl
@[simp] theorem State.respond_attempt (s : State) (a : Issuer) (r : Rsp) : (s.respond a r).attempt = s.attempt := rfl
@[simp] theorem State.respond_polls (s : State) (a : Issuer) (r : Rsp) : (s.respond a r).polls = s.polls := rfl
@[simp] theorem State.respond_cancelReq (s : State) (a : Issuer) (r : Rsp) : (s.respond a r).cancelReq = s.cancelReq := rfl
@[simp] theorem State.respond_connCaller (s : State) (a : Issuer) (r : Rsp) : (s.respond a r).connCaller = s.connCaller := rfl
@[simp] theorem State.respond_connResult (s : State) (a : Issuer) (r : Rsp) : (s.respond a r).connResult = s.connResult := rfl
@[simp] theorem State.respond_scratch (s : State) (a : Issuer) (r : Rsp) : (s.respond a r).scratch = s.scratch := rfl
@[simp] theorem State.respond_rd (s : State) (a : Issuer) (r : Rsp) : (s.respond a r).rd = s.rd := rfl
@[simp] theorem State.respond_rx (s : State) (a : Issuer) (r : Rsp) : (s.respond a r).rx = s.rx := rfl
@[simp] theorem State.respond_tev (s : State) (a : Issuer) (r : Rsp) : (s.respond a r).tev = s.tev := rfl
@[simp] theorem State.respond_refused (s : State) (a : Issuer) (r : Rsp) : (s.respond a r).refused = s.refused := rfl
@[simp] theorem State.respond_tmr (s : State) (a : Issuer) (r : Rsp) : (s.respond a r).tmr = s.tmr := rfl
@[simp] theorem State.respond_cur (s : State) (a : Issuer) (r : Rsp) : (s.respond a r).cur = s.cur := rfl
@[simp] theorem State.respond_rsps (s : State) (a : Issuer) (r : Rsp) : (s.respond a r).rsps = s.rsps ++ [(a, r)] := rfl
@[simp] theorem State.respond_instream (s : State) (a : Issuer) (r : Rsp) : (s.respond a r).instream = s.instream := rfl
@[simp] theorem State.respond_accepted (s : State) (a : Issuer) (r : Rsp) : (s.respond a r).accepted = s.accepted := rfl
@[simp] theorem State.respond_popped (s : State) (a : Issuer) (r : Rsp) : (s.respond a r).popped = s.popped := rfl
@[simp] theorem State.respond_ownPop (s : State) (a : Issuer) (r : Rsp) : (s.respond a r).ownPop = s.ownPop := rfl
@[simp] theorem State.respond_sched (s : State) (a : Issuer) (r : Rsp) : (s.respond a r).sched = s.sched := rfl
@[simp] theorem State.respond_tick (s : State) (a : Issuer) (r : Rsp) : (s.respond a r).tick = s.tick := rfl

@[simp] theorem State.complete_cfg (s : State) (a : Issuer) (v : Word) : (s.complete a v).cfg = s.cfg := rfl
@[simp] theorem State.complete_debug (s : State) (a : Issuer) (v : Word) : (s.complete a v).debug = s.debug := rfl
@[simp] theorem State.complete_mem (s : State) (a : Issuer) (v : Word) : (s.complete a v).mem = s.mem := rfl
@[simp] theorem State.complete_head (s : State) (a : Issuer) (v : Word) : (s.complete a v).head = s.head := rfl
@[simp] theorem State.complete_tail (s : State) (a : Issuer) (v : Word) : (s.complete a v).tail = s.tail := rfl
@[simp] theorem State.complete_count (s : State) (a : Issuer) (v : Word) : (s.complete a v).count = s.count := rfl
@[simp] theorem State.complete_fclosed (s : State) (a : Issuer) (v : Word) : (s.complete a v).fclosed = s.fclosed := rfl
@[simp] theorem State.complete_ovf (s : State) (a : Issuer) (v : Word) : (s.complete a v).ovf = s.ovf := rfl
@[simp] theorem State.complete_phase (s : State) (a : Issuer) (v : Word) : (s.complete a v).phase = s.phase := rfl
@[simp] theorem State.complete_link (s : State) (a : Issuer) (v : Word) : (s.complete a v).link = s.link := rfl
@[simp] theorem State.complete_handle (s : State) (a : Issuer) (v : Word) : (s.complete a v).handle = s.handle := rfl
@[simp] theorem State.complete_attempt (s : State) (a : Issuer) (v : Word) : (s.complete a v).attempt = s.attempt := rfl
@[simp] theorem State.complete_polls (s : State) (a : Issuer) (v : Word) : (s.complete a v).polls = s.polls := rfl
@[simp] theorem State.complete_cancelReq (s : State) (a : Issuer) (v : Word) : (s.complete a v).cancelReq = s.cancelReq := rfl
@[simp] theorem State.complete_connCaller (s : State) (a : Issuer) (v : Word) : (s.complete a v).connCaller = s.connCaller := rfl
@[simp] theorem State.complete_connResult (s : State) (a : Issuer) (v : Word) : (s.complete a v).connResult = s.connResult := rfl
@[simp] theorem State.complete_scratch (s : State) (a : Issuer) (v : Word) : (s.complete a v).scratch = s.scratch := rfl
@[simp] theorem State.complete_rd (s : State) (a : Issuer) (v : Word) : (s.complete a v).rd = s.rd := rfl
@[simp] theorem State.complete_rx (s : State) (a : Issuer) (v : Word) : (s.complete a v).rx = s.rx := rfl
@[simp] theorem State.complete_tev (s : State) (a : Issuer) (v : Word) : (s.complete a v).tev = s.tev := rfl
@[simp] theorem State.complete_refused (s : State) (a : Issuer) (v : Word) : (s.complete a v).refused = s.refused := rfl
@[simp] theorem State.complete_tmr (s : State) (a : Issuer) (v : Word) : (s.complete a v).tmr = s.tmr := rfl
@[simp] theorem State.complete_cur (s : State) (a : Issuer) (v : Word) : (s.complete a v).cur = s.cur := rfl
@[simp] theorem State.complete_rsps (s : State) (a : Issuer) (v : Word) : (s.complete a v).rsps = s.rsps ++ [(a, { st := .ok, val := v })] := rfl
@[simp] theorem State.complete_instream (s : State) (a : Issuer) (v : Word) : (s.complete a v).instream = s.instream := rfl
@[simp] theorem State.complete_accepted (s : State) (a : Issuer) (v : Word) : (s.complete a v).accepted = s.accepted := rfl
@[simp] theorem State.complete_popped (s : State) (a : Issuer) (v : Word) : (s.complete a v).popped = s.popped := rfl
@[simp] theorem State.complete_ownPop (s : State) (a : Issuer) (v : Word) : (s.complete a v).ownPop = s.ownPop := rfl
@[simp] theorem State.complete_sched (s : State) (a : Issuer) (v : Word) : (s.complete a v).sched = s.sched := rfl
@[simp] theorem State.complete_tick (s : State) (a : Issuer) (v : Word) : (s.complete a v).tick = s.tick := rfl

@[simp] theorem State.raise_cfg (s : State) (a : Issuer) (e : Status) : (s.raise a e).cfg = s.cfg := rfl
@[simp] theorem State.raise_debug (s : State) (a : Issuer) (e : Status) : (s.raise a e).debug = s.debug := rfl
@[simp] theorem State.raise_mem (s : State) (a : Issuer) (e : Status) : (s.raise a e).mem = s.mem := rfl
@[simp] theorem State.raise_head (s : State) (a : Issuer) (e : Status) : (s.raise a e).head = s.head := rfl
@[simp] theorem State.raise_tail (s : State) (a : Issuer) (e : Status) : (s.raise a e).tail = s.tail := rfl
@[simp] theorem State.raise_count (s : State) (a : Issuer) (e : Status) : (s.raise a e).count = s.count := rfl
@[simp] theorem State.raise_fclosed (s : State) (a : Issuer) (e : Status) : (s.raise a e).fclosed = s.fclosed := rfl
@[simp] theorem State.raise_ovf (s : State) (a : Issuer) (e : Status) : (s.raise a e).ovf = s.ovf := rfl
@[simp] theorem State.raise_phase (s : State) (a : Issuer) (e : Status) : (s.raise a e).phase = s.phase := rfl
@[simp] theorem State.raise_link (s : State) (a : Issuer) (e : Status) : (s.raise a e).link = s.link := rfl
@[simp] theorem State.raise_handle (s : State) (a : Issuer) (e : Status) : (s.raise a e).handle = s.handle := rfl
@[simp] theorem State.raise_attempt (s : State) (a : Issuer) (e : Status) : (s.raise a e).attempt = s.attempt := rfl
@[simp] theorem State.raise_polls (s : State) (a : Issuer) (e : Status) : (s.raise a e).polls = s.polls := rfl
@[simp] theorem State.raise_cancelReq (s : State) (a : Issuer) (e : Status) : (s.raise a e).cancelReq = s.cancelReq := rfl
@[simp] theorem State.raise_connCaller (s : State) (a : Issuer) (e : Status) : (s.raise a e).connCaller = s.connCaller := rfl
@[simp] theorem State.raise_connResult (s : State) (a : Issuer) (e : Status) : (s.raise a e).connResult = s.connResult := rfl
@[simp] theorem State.raise_scratch (s : State) (a : Issuer) (e : Status) : (s.raise a e).scratch = s.scratch := rfl
@[simp] theorem State.raise_rd (s : State) (a : Issuer) (e : Status) : (s.raise a e).rd = s.rd := rfl
@[simp] theorem State.raise_rx (s : State) (a : Issuer) (e : Status) : (s.raise a e).rx = s.rx := rfl
@[simp] theorem State.raise_tev (s : State) (a : Issuer) (e : Status) : (s.raise a e).tev = s.tev := rfl
@[simp] theorem State.raise_refused (s : State) (a : Issuer) (e : Status) : (s.raise a e).refused = s.refused := rfl
@[simp] theorem State.raise_tmr (s : State) (a : Issuer) (e : Status) : (s.raise a e).tmr = s.tmr := rfl
@[simp] theorem State.raise_cur (s : State) (a : Issuer) (e : Status) : (s.raise a e).cur = s.cur := rfl
@[simp] theorem State.raise_rsps (s : State) (a : Issuer) (e : Status) : (s.raise a e).rsps = s.rsps ++ [(a, { st := e, val := 0#32 })] := rfl
@[simp] theorem State.raise_instream (s : State) (a : Issuer) (e : Status) : (s.raise a e).instream = s.instream := rfl
@[simp] theorem State.raise_accepted (s : State) (a : Issuer) (e : Status) : (s.raise a e).accepted = s.accepted := rfl
@[simp] theorem State.raise_popped (s : State) (a : Issuer) (e : Status) : (s.raise a e).popped = s.popped := rfl
@[simp] theorem State.raise_ownPop (s : State) (a : Issuer) (e : Status) : (s.raise a e).ownPop = s.ownPop := rfl
@[simp] theorem State.raise_sched (s : State) (a : Issuer) (e : Status) : (s.raise a e).sched = s.sched := rfl
@[simp] theorem State.raise_tick (s : State) (a : Issuer) (e : Status) : (s.raise a e).tick = s.tick := rfl

@[simp] theorem State.refuse_cfg (s : State) : (s.refuse).cfg = s.cfg := rfl
@[simp] theorem State.refuse_debug (s : State) : (s.refuse).debug = s.debug := rfl
@[simp] theorem State.refuse_mem (s : State) : (s.refuse).mem = s.mem := rfl
@[simp] theorem State.refuse_head (s : State) : (s.refuse).head = s.head := rfl
@[simp] theorem State.refuse_tail (s : State) : (s.refuse).tail = s.tail := rfl
@[simp] theorem State.refuse_count (s : State) : (s.refuse).count = s.count := rfl
@[simp] theorem State.refuse_fclosed (s : State) : (s.refuse).fclosed = s.fclosed := rfl
@[simp] theorem State.refuse_ovf (s : State) : (s.refuse).ovf = s.ovf := rfl
@[simp] theorem State.refuse_phase (s : State) : (s.refuse).phase = s.phase := rfl
@[simp] theorem State.refuse_link (s : State) : (s.refuse).link = s.link := rfl
@[simp] theorem State.refuse_handle (s : State) : (s.refuse).handle = s.handle := rfl
@[simp] theorem State.refuse_attempt (s : State) : (s.refuse).attempt = s.attempt := rfl
@[simp] theorem State.refuse_polls (s : State) : (s.refuse).polls = s.polls := rfl
@[simp] theorem State.refuse_cancelReq (s : State) : (s.refuse).cancelReq = s.cancelReq := rfl
@[simp] theorem State.refuse_connCaller (s : State) : (s.refuse).connCaller = s.connCaller := rfl
@[simp] theorem State.refuse_connResult (s : State) : (s.refuse).connResult = s.connResult := rfl
@[simp] theorem State.refuse_scratch (s : State) : (s.refuse).scratch = s.scratch := rfl
@[simp] theorem State.refuse_rd (s : State) : (s.refuse).rd = s.rd := rfl
@[simp] theorem State.refuse_rx (s : State) : (s.refuse).rx = s.rx := rfl
@[simp] theorem State.refuse_tev (s : State) : (s.refuse).tev = s.tev := rfl
@[simp] theorem State.refuse_refused (s : State) : (s.refuse).refused = true := rfl
@[simp] theorem State.refuse_tmr (s : State) : (s.refuse).tmr = s.tmr := rfl
@[simp] theorem State.refuse_cur (s : State) : (s.refuse).cur = s.cur := rfl
@[simp] theorem State.refuse_rsps (s : State) : (s.refuse).rsps = s.rsps := rfl
@[simp] theorem State.refuse_instream (s : State) : (s.refuse).instream = s.instream := rfl
@[simp] theorem State.refuse_accepted (s : State) : (s.refuse).accepted = s.accepted := rfl
@[simp] theorem State.refuse_popped (s : State) : (s.refuse).popped = s.popped := rfl
@[simp] theorem State.refuse_ownPop (s : State) : (s.refuse).ownPop = s.ownPop := rfl
@[simp] theorem State.refuse_sched (s : State) : (s.refuse).sched = s.sched := rfl
@[simp] theorem State.refuse_tick (s : State) : (s.refuse).tick = s.tick := rfl

@[simp] theorem State.present_cfg (s : State) (c : Cmd) : (s.present c).cfg = s.cfg := rfl
@[simp] theorem State.present_debug (s : State) (c : Cmd) : (s.present c).debug = s.debug := rfl
@[simp] theorem State.present_mem (s : State) (c : Cmd) : (s.present c).mem = s.mem := rfl
@[simp] theorem State.present_head (s : State) (c : Cmd) : (s.present c).head = s.head := rfl
@[simp] theorem State.present_tail (s : State) (c : Cmd) : (s.present c).tail = s.tail := rfl
@[simp] theorem State.present_count (s : State) (c : Cmd) : (s.present c).count = s.count := rfl
@[simp] theorem State.present_fclosed (s : State) (c : Cmd) : (s.present c).fclosed = s.fclosed := rfl
@[simp] theorem State.present_ovf (s : State) (c : Cmd) : (s.present c).ovf = s.ovf := rfl
@[simp] theorem State.present_phase (s : State) (c : Cmd) : (s.present c).phase = s.phase := rfl
@[simp] theorem State.present_link (s : State) (c : Cmd) : (s.present c).link = s.link := rfl
@[simp] theorem State.present_handle (s : State) (c : Cmd) : (s.present c).handle = s.handle := rfl
@[simp] theorem State.present_attempt (s : State) (c : Cmd) : (s.present c).attempt = s.attempt := rfl
@[simp] theorem State.present_polls (s : State) (c : Cmd) : (s.present c).polls = s.polls := rfl
@[simp] theorem State.present_cancelReq (s : State) (c : Cmd) : (s.present c).cancelReq = s.cancelReq := rfl
@[simp] theorem State.present_connCaller (s : State) (c : Cmd) : (s.present c).connCaller = s.connCaller := rfl
@[simp] theorem State.present_connResult (s : State) (c : Cmd) : (s.present c).connResult = s.connResult := rfl
@[simp] theorem State.present_scratch (s : State) (c : Cmd) : (s.present c).scratch = s.scratch := rfl
@[simp] theorem State.present_rd (s : State) (c : Cmd) : (s.present c).rd = s.rd := rfl
@[simp] theorem State.present_rx (s : State) (c : Cmd) : (s.present c).rx = s.rx := rfl
@[simp] theorem State.present_tev (s : State) (c : Cmd) : (s.present c).tev = s.tev := rfl
@[simp] theorem State.present_refused (s : State) (c : Cmd) : (s.present c).refused = s.refused := rfl
@[simp] theorem State.present_tmr (s : State) (c : Cmd) : (s.present c).tmr = s.tmr := rfl
@[simp] theorem State.present_cur (s : State) (c : Cmd) : (s.present c).cur = c := rfl
@[simp] theorem State.present_rsps (s : State) (c : Cmd) : (s.present c).rsps = s.rsps := rfl
@[simp] theorem State.present_instream (s : State) (c : Cmd) : (s.present c).instream = s.instream := rfl
@[simp] theorem State.present_accepted (s : State) (c : Cmd) : (s.present c).accepted = s.accepted := rfl
@[simp] theorem State.present_popped (s : State) (c : Cmd) : (s.present c).popped = s.popped := rfl
@[simp] theorem State.present_ownPop (s : State) (c : Cmd) : (s.present c).ownPop = s.ownPop := rfl
@[simp] theorem State.present_sched (s : State) (c : Cmd) : (s.present c).sched = s.sched := rfl
@[simp] theorem State.present_tick (s : State) (c : Cmd) : (s.present c).tick = s.tick := rfl

@[simp] theorem State.advance_cfg (s : State) : (s.advance).cfg = s.cfg := rfl
@[simp] theorem State.advance_debug (s : State) : (s.advance).debug = s.debug := rfl
@[simp] theorem State.advance_mem (s : State) : (s.advance).mem = s.mem := rfl
@[simp] theorem State.advance_head (s : State) : (s.advance).head = s.head := rfl
@[simp] theorem State.advance_tail (s : State) : (s.advance).tail = s.tail := rfl
@[simp] theorem State.advance_count (s : State) : (s.advance).count = s.count := rfl
@[simp] theorem State.advance_fclosed (s : State) : (s.advance).fclosed = s.fclosed := rfl
@[simp] theorem State.advance_ovf (s : State) : (s.advance).ovf = s.ovf := rfl
@[simp] theorem State.advance_phase (s : State) : (s.advance).phase = s.phase := rfl
@[simp] theorem State.advance_link (s : State) : (s.advance).link = s.link := rfl
@[simp] theorem State.advance_handle (s : State) : (s.advance).handle = s.handle := rfl
@[simp] theorem State.advance_attempt (s : State) : (s.advance).attempt = s.attempt := rfl
@[simp] theorem State.advance_polls (s : State) : (s.advance).polls = s.polls := rfl
@[simp] theorem State.advance_cancelReq (s : State) : (s.advance).cancelReq = s.cancelReq := rfl
@[simp] theorem State.advance_connCaller (s : State) : (s.advance).connCaller = s.connCaller := rfl
@[simp] theorem State.advance_connResult (s : State) : (s.advance).connResult = s.connResult := rfl
@[simp] theorem State.advance_scratch (s : State) : (s.advance).scratch = s.scratch := rfl
@[simp] theorem State.advance_rd (s : State) : (s.advance).rd = s.rd := rfl
@[simp] theorem State.advance_rx (s : State) : (s.advance).rx = s.rx := rfl
@[simp] theorem State.advance_tev (s : State) : (s.advance).tev = s.tev := rfl
@[simp] theorem State.advance_refused (s : State) : (s.advance).refused = s.refused := rfl
@[simp] theorem State.advance_tmr (s : State) : (s.advance).tmr = s.tmr := rfl
@[simp] theorem State.advance_cur (s : State) : (s.advance).cur = s.cur := rfl
@[simp] theorem State.advance_rsps (s : State) : (s.advance).rsps = s.rsps := rfl
@[simp] theorem State.advance_instream (s : State) : (s.advance).instream = s.instream := rfl
@[simp] theorem State.advance_accepted (s : State) : (s.advance).accepted = s.accepted := rfl
@[simp] theorem State.advance_popped (s : State) : (s.advance).popped = s.popped := rfl
@[simp] theorem State.advance_ownPop (s : State) : (s.advance).ownPop = s.ownPop := rfl
@[simp] theorem State.advance_sched (s : State) : (s.advance).sched = s.sched.tail := rfl
@[simp] theorem State.advance_tick (s : State) : (s.advance).tick = s.tick + 1 := rfl

@[simp] theorem State.closeFifo_cfg (s : State) : (s.closeFifo).cfg = s.cfg := rfl
@[simp] theorem State.closeFifo_debug (s : State) : (s.closeFifo).debug = s.debug := rfl
@[simp] theorem State.closeFifo_mem (s : State) : (s.closeFifo).mem = s.mem := rfl
@[simp] theorem State.closeFifo_head (s : State) : (s.closeFifo).head = s.head := rfl
@[simp] theorem State.closeFifo_tail (s : State) : (s.closeFifo).tail = s.tail := rfl
@[simp] theorem State.closeFifo_count (s : State) : (s.closeFifo).count = s.count := rfl
@[simp] theorem State.closeFifo_fclosed (s : State) : (s.closeFifo).fclosed = true := rfl
@[simp] theorem State.closeFifo_ovf (s : State) : (s.closeFifo).ovf = s.ovf := rfl
@[simp] theorem State.closeFifo_phase (s : State) : (s.closeFifo).phase = s.phase := rfl
@[simp] theorem State.closeFifo_link (s : State) : (s.closeFifo).link = s.link := rfl
@[simp] theorem State.closeFifo_handle (s : State) : (s.closeFifo).handle = s.handle := rfl
@[simp] theorem State.closeFifo_attempt (s : State) : (s.closeFifo).attempt = s.attempt := rfl
@[simp] theorem State.closeFifo_polls (s : State) : (s.closeFifo).polls = s.polls := rfl
@[simp] theorem State.closeFifo_cancelReq (s : State) : (s.closeFifo).cancelReq = s.cancelReq := rfl
@[simp] theorem State.closeFifo_connCaller (s : State) : (s.closeFifo).connCaller = s.connCaller := rfl
@[simp] theorem State.closeFifo_connResult (s : State) : (s.closeFifo).connResult = s.connResult := rfl
@[simp] theorem State.closeFifo_scratch (s : State) : (s.closeFifo).scratch = s.scratch := rfl
@[simp] theorem State.closeFifo_rd (s : State) : (s.closeFifo).rd = s.rd := rfl
@[simp] theorem State.closeFifo_rx (s : State) : (s.closeFifo).rx = s.rx := rfl
@[simp] theorem State.closeFifo_tev (s : State) : (s.closeFifo).tev = s.tev := rfl
@[simp] theorem State.closeFifo_refused (s : State) : (s.closeFifo).refused = s.refused := rfl
@[simp] theorem State.closeFifo_tmr (s : State) : (s.closeFifo).tmr = s.tmr := rfl
@[simp] theorem State.closeFifo_cur (s : State) : (s.closeFifo).cur = s.cur := rfl
@[simp] theorem State.closeFifo_rsps (s : State) : (s.closeFifo).rsps = s.rsps := rfl
@[simp] theorem State.closeFifo_instream (s : State) : (s.closeFifo).instream = s.instream := rfl
@[simp] theorem State.closeFifo_accepted (s : State) : (s.closeFifo).accepted = s.accepted := rfl
@[simp] theorem State.closeFifo_popped (s : State) : (s.closeFifo).popped = s.popped := rfl
@[simp] theorem State.closeFifo_ownPop (s : State) : (s.closeFifo).ownPop = s.ownPop := rfl
@[simp] theorem State.closeFifo_sched (s : State) : (s.closeFifo).sched = s.sched := rfl
@[simp] theorem State.closeFifo_tick (s : State) : (s.closeFifo).tick = s.tick := rfl

@[simp] theorem State.loadScratch_cfg (s : State) (bs : List Byte) : (s.loadScratch bs).cfg = s.cfg := rfl
@[simp] theorem State.loadScratch_debug (s : State) (bs : List Byte) : (s.loadScratch bs).debug = s.debug := rfl
@[simp] theorem State.loadScratch_mem (s : State) (bs : List Byte) : (s.loadScratch bs).mem = s.mem := rfl
@[simp] theorem State.loadScratch_head (s : State) (bs : List Byte) : (s.loadScratch bs).head = s.head := rfl
@[simp] theorem State.loadScratch_tail (s : State) (bs : List Byte) : (s.loadScratch bs).tail = s.tail := rfl
@[simp] theorem State.loadScratch_count (s : State) (bs : List Byte) : (s.loadScratch bs).count = s.count := rfl
@[simp] theorem State.loadScratch_fclosed (s : State) (bs : List Byte) : (s.loadScratch bs).fclosed = s.fclosed := rfl
@[simp] theorem State.loadScratch_ovf (s : State) (bs : List Byte) : (s.loadScratch bs).ovf = s.ovf := rfl
@[simp] theorem State.loadScratch_phase (s : State) (bs : List Byte) : (s.loadScratch bs).phase = s.phase := rfl
@[simp] theorem State.loadScratch_link (s : State) (bs : List Byte) : (s.loadScratch bs).link = s.link := rfl
@[simp] theorem State.loadScratch_handle (s : State) (bs : List Byte) : (s.loadScratch bs).handle = s.handle := rfl
@[simp] theorem State.loadScratch_attempt (s : State) (bs : List Byte) : (s.loadScratch bs).attempt = s.attempt := rfl
@[simp] theorem State.loadScratch_polls (s : State) (bs : List Byte) : (s.loadScratch bs).polls = s.polls := rfl
@[simp] theorem State.loadScratch_cancelReq (s : State) (bs : List Byte) : (s.loadScratch bs).cancelReq = s.cancelReq := rfl
@[simp] theorem State.loadScratch_connCaller (s : State) (bs : List Byte) : (s.loadScratch bs).connCaller = s.connCaller := rfl
@[simp] theorem State.loadScratch_connResult (s : State) (bs : List Byte) : (s.loadScratch bs).connResult = s.connResult := rfl
@[simp] theorem State.loadScratch_scratch (s : State) (bs : List Byte) : (s.loadScratch bs).scratch = (bs ++ s.scratch.drop bs.length).take s.cfg.scratchSize := rfl
@[simp] theorem State.loadScratch_rd (s : State) (bs : List Byte) : (s.loadScratch bs).rd = s.rd := rfl
@[simp] theorem State.loadScratch_rx (s : State) (bs : List Byte) : (s.loadScratch bs).rx = s.rx := rfl
@[simp] theorem State.loadScratch_tev (s : State) (bs : List Byte) : (s.loadScratch bs).tev = s.tev := rfl
@[simp] theorem State.loadScratch_refused (s : State) (bs : List Byte) : (s.loadScratch bs).refused = s.refused := rfl
@[simp] theorem State.loadScratch_tmr (s : State) (bs : List Byte) : (s.loadScratch bs).tmr = s.tmr := rfl
@[simp] theorem State.loadScratch_cur (s : State) (bs : List Byte) : (s.loadScratch bs).cur = s.cur := rfl
@[simp] theorem State.loadScratch_rsps (s : State) (bs : List Byte) : (s.loadScratch bs).rsps = s.rsps := rfl
@[simp] theorem State.loadScratch_instream (s : State) (bs : List Byte) : (s.loadScratch bs).instream = s.instream := rfl
@[simp] theorem State.loadScratch_accepted (s : State) (bs : List Byte) : (s.loadScratch bs).accepted = s.accepted := rfl
@[simp] theorem State.loadScratch_popped (s : State) (bs : List Byte) : (s.loadScratch bs).popped = s.popped := rfl
@[simp] theorem State.loadScratch_ownPop (s : State) (bs : List Byte) : (s.loadScratch bs).ownPop = s.ownPop := rfl
@[simp] theorem State.loadScratch_sched (s : State) (bs : List Byte) : (s.loadScratch bs).sched = s.sched := rfl
@[simp] theorem State.loadScratch_tick (s : State) (bs : List Byte) : (s.loadScratch bs).tick = s.tick := rfl

@[simp] theorem State.txWrite_cfg (s : State) (bs : List Byte) (d : WriteDraw) : (s.txWrite bs d).cfg = s.cfg := rfl
@[simp] theorem State.txWrite_debug (s : State) (bs : List Byte) (d : WriteDraw) : (s.txWrite bs d).debug = s.debug := rfl
@[simp] theorem State.txWrite_mem (s : State) (bs : List Byte) (d : WriteDraw) : (s.txWrite bs d).mem = s.mem := rfl
@[simp] theorem State.txWrite_head (s : State) (bs : List Byte) (d : WriteDraw) : (s.txWrite bs d).head = s.head := rfl
@[simp] theorem State.txWrite_tail (s : State) (bs : List Byte) (d : WriteDraw) : (s.txWrite bs d).tail = s.tail := rfl
@[simp] theorem State.txWrite_count (s : State) (bs : List Byte) (d : WriteDraw) : (s.txWrite bs d).count = s.count := rfl
@[simp] theorem State.txWrite_fclosed (s : State) (bs : List Byte) (d : WriteDraw) : (s.txWrite bs d).fclosed = s.fclosed := rfl
@[simp] theorem State.txWrite_ovf (s : State) (bs : List Byte) (d : WriteDraw) : (s.txWrite bs d).ovf = s.ovf := rfl
@[simp] theorem State.txWrite_phase (s : State) (bs : List Byte) (d : WriteDraw) : (s.txWrite bs d).phase = s.phase := rfl
@[simp] theorem State.txWrite_link (s : State) (bs : List Byte) (d : WriteDraw) : (s.txWrite bs d).link = s.link := rfl
@[simp] theorem State.txWrite_handle (s : State) (bs : List Byte) (d : WriteDraw) : (s.txWrite bs d).handle = s.handle := rfl
@[simp] theorem State.txWrite_attempt (s : State) (bs : List Byte) (d : WriteDraw) : (s.txWrite bs d).attempt = s.attempt := rfl
@[simp] theorem State.txWrite_polls (s : State) (bs : List Byte) (d : WriteDraw) : (s.txWrite bs d).polls = s.polls := rfl
@[simp] theorem State.txWrite_cancelReq (s : State) (bs : List Byte) (d : WriteDraw) : (s.txWrite bs d).cancelReq = s.cancelReq := rfl
@[simp] theorem State.txWrite_connCaller (s : State) (bs : List Byte) (d : WriteDraw) : (s.txWrite bs d).connCaller = s.connCaller := rfl
@[simp] theorem State.txWrite_connResult (s : State) (bs : List Byte) (d : WriteDraw) : (s.txWrite bs d).connResult = s.connResult := rfl
@[simp] theorem State.txWrite_scratch (s : State) (bs : List Byte) (d : WriteDraw) : (s.txWrite bs d).scratch = (bs ++ s.scratch.drop bs.length).take s.cfg.scratchSize := rfl
@[simp] theorem State.txWrite_rd (s : State) (bs : List Byte) (d : WriteDraw) : (s.txWrite bs d).rd = s.rd := rfl
@[simp] theorem State.txWrite_rx (s : State) (bs : List Byte) (d : WriteDraw) : (s.txWrite bs d).rx = s.rx := rfl
@[simp] theorem State.txWrite_tev (s : State) (bs : List Byte) (d : WriteDraw) : (s.txWrite bs d).tev = s.tev ++ [TEvent.write bs (wireCount bs.length d)] := rfl
@[simp] theorem State.txWrite_refused (s : State) (bs : List Byte) (d : WriteDraw) : (s.txWrite bs d).refused = s.refused := rfl
@[simp] theorem State.txWrite_tmr (s : State) (bs : List Byte) (d : WriteDraw) : (s.txWrite bs d).tmr = s.tmr := rfl
@[simp] theorem State.txWrite_cur (s : State) (bs : List Byte) (d : WriteDraw) : (s.txWrite bs d).cur = s.cur := rfl
@[simp] theorem State.txWrite_rsps (s : State) (bs : List Byte) (d : WriteDraw) : (s.txWrite bs d).rsps = s.rsps := rfl
@[simp] theorem State.txWrite_instream (s : State) (bs : List Byte) (d : WriteDraw) : (s.txWrite bs d).instream = s.instream := rfl
@[simp] theorem State.txWrite_accepted (s : State) (bs : List Byte) (d : WriteDraw) : (s.txWrite bs d).accepted = s.accepted := rfl
@[simp] theorem State.txWrite_popped (s : State) (bs : List Byte) (d : WriteDraw) : (s.txWrite bs d).popped = s.popped := rfl
@[simp] theorem State.txWrite_ownPop (s : State) (bs : List Byte) (d : WriteDraw) : (s.txWrite bs d).ownPop = s.ownPop := rfl
@[simp] theorem State.txWrite_sched (s : State) (bs : List Byte) (d : WriteDraw) : (s.txWrite bs d).sched = s.sched := rfl
@[simp] theorem State.txWrite_tick (s : State) (bs : List Byte) (d : WriteDraw) : (s.txWrite bs d).tick = s.tick := rfl

@[simp] theorem State.scheduleWord_debug (s : State) (w : Half) : (s.scheduleWord w).debug = s.debug := rfl
@[simp] theorem State.scheduleWord_mem (s : State) (w : Half) : (s.scheduleWord w).mem = s.mem := rfl
@[simp] theorem State.scheduleWord_head (s : State) (w : Half) : (s.scheduleWord w).head = s.head := rfl
@[simp] theorem State.scheduleWord_tail (s : State) (w : Half) : (s.scheduleWord w).tail = s.tail := rfl
@[simp] theorem State.scheduleWord_count (s : State) (w : Half) : (s.scheduleWord w).count = s.count := rfl
@[simp] theorem State.scheduleWord_fclosed (s : State) (w : Half) : (s.scheduleWord w).fclosed = s.fclosed := rfl
@[simp] theorem State.scheduleWord_ovf (s : State) (w : Half) : (s.scheduleWord w).ovf = s.ovf := rfl
@[simp] theorem State.scheduleWord_phase (s : State) (w : Half) : (s.scheduleWord w).phase = s.phase := rfl
@[simp] theorem State.scheduleWord_link (s : State) (w : Half) : (s.scheduleWord w).link = s.link := rfl
@[simp] theorem State.scheduleWord_handle (s : State) (w : Half) : (s.scheduleWord w).handle = s.handle := rfl
@[simp] theorem State.scheduleWord_attempt (s : State) (w : Half) : (s.scheduleWord w).attempt = s.attempt := rfl
@[simp] theorem State.scheduleWord_polls (s : State) (w : Half) : (s.scheduleWord w).polls = s.polls := rfl
@[simp] theorem State.scheduleWord_cancelReq (s : State) (w : Half) : (s.scheduleWord w).cancelReq = s.cancelReq := rfl
@[simp] theorem State.scheduleWord_connCaller (s : State) (w : Half) : (s.scheduleWord w).connCaller = s.connCaller := rfl
@[simp] theorem State.scheduleWord_connResult (s : State) (w : Half) : (s.scheduleWord w).connResult = s.connResult := rfl
@[simp] theorem State.scheduleWord_scratch (s : State) (w : Half) : (s.scheduleWord w).scratch = s.scratch := rfl
@[simp] theorem State.scheduleWord_rd (s : State) (w : Half) : (s.scheduleWord w).rd = s.rd := rfl
@[simp] theorem State.scheduleWord_rx (s : State) (w : Half) : (s.scheduleWord w).rx = s.rx := rfl
@[simp] theorem State.scheduleWord_tev (s : State) (w : Half) : (s.scheduleWord w).tev = s.tev := rfl
@[simp] theorem State.scheduleWord_refused (s : State) (w : Half) : (s.scheduleWord w).refused = s.refused := rfl
@[simp] theorem State.scheduleWord_tmr (s : State) (w : Half) : (s.scheduleWord w).tmr = s.tmr := rfl
@[simp] theorem State.scheduleWord_cur (s : State) (w : Half) : (s.scheduleWord w).cur = s.cur := rfl
@[simp] theorem State.scheduleWord_rsps (s : State) (w : Half) : (s.scheduleWord w).rsps = s.rsps := rfl
@[simp] theorem State.scheduleWord_instream (s : State) (w : Half) : (s.scheduleWord w).instream = s.instream := rfl
@[simp] theorem State.scheduleWord_accepted (s : State) (w : Half) : (s.scheduleWord w).accepted = s.accepted := rfl
@[simp] theorem State.scheduleWord_popped (s : State) (w : Half) : (s.scheduleWord w).popped = s.popped := rfl
@[simp] theorem State.scheduleWord_ownPop (s : State) (w : Half) : (s.scheduleWord w).ownPop = s.ownPop := rfl
@[simp] theorem State.scheduleWord_sched (s : State) (w : Half) : (s.scheduleWord w).sched = .issue (fetchCmd w) :: s.sched := rfl
@[simp] theorem State.scheduleWord_tick (s : State) (w : Half) : (s.scheduleWord w).tick = s.tick := rfl

@[simp] theorem State.releaseHandle_cfg (s : State) : (s.releaseHandle).cfg = s.cfg := by
  unfold State.releaseHandle; split <;> simp_all
@[simp] theorem State.releaseHandle_debug (s : State) : (s.releaseHandle).debug = s.debug := by
  unfold State.releaseHandle; split <;> simp_all
@[simp] theorem State.releaseHandle_mem (s : State) : (s.releaseHandle).mem = s.mem := by
  unfold State.releaseHandle; split <;> simp_all
@[simp] theorem State.releaseHandle_head (s : State) : (s.releaseHandle).head = s.head := by
  unfold State.releaseHandle; split <;> simp_all
@[simp] theorem State.releaseHandle_tail (s : State) : (s.releaseHandle).tail = s.tail := by
  unfold State.releaseHandle; split <;> simp_all
@[simp] theorem State.releaseHandle_count (s : State) : (s.releaseHandle).count = s.count := by
  unfold State.releaseHandle; split <;> simp_all
@[simp] theorem State.releaseHandle_fclosed (s : State) : (s.releaseHandle).fclosed = s.fclosed := by
  unfold State.releaseHandle; split <;> simp_all
@[simp] theorem State.releaseHandle_ovf (s : State) : (s.releaseHandle).ovf = s.ovf := by
  unfold State.releaseHandle; split <;> simp_all
@[simp] theorem State.releaseHandle_phase (s : State) : (s.releaseHandle).phase = s.phase := by
  unfold State.releaseHandle; split <;> simp_all
@[simp] theorem State.releaseHandle_link (s : State) : (s.releaseHandle).link = s.link := by
  unfold State.releaseHandle; split <;> simp_all
@[simp] theorem State.releaseHandle_handle (s : State) : (s.releaseHandle).handle = false := by
  unfold State.releaseHandle; split <;> simp_all
@[simp] theorem State.releaseHandle_attempt (s : State) : (s.releaseHandle).attempt = s.attempt := by
  unfold State.releaseHandle; split <;> simp_all
@[simp] theorem State.releaseHandle_polls (s : State) : (s.releaseHandle).polls = s.polls := by
  unfold State.releaseHandle; split <;> simp_all
@[simp] theorem State.releaseHandle_cancelReq (s : State) : (s.releaseHandle).cancelReq = s.cancelReq := by
  unfold State.releaseHandle; split <;> simp_all
@[simp] theorem State.releaseHandle_connCaller (s : State) : (s.releaseHandle).connCaller = s.connCaller := by
  unfold State.releaseHandle; split <;> simp_all
@[simp] theorem State.releaseHandle_connResult (s : State) : (s.releaseHandle).connResult = s.connResult := by
  unfold State.releaseHandle; split <;> simp_all
@[simp] theorem State.releaseHandle_scratch (s : State) : (s.releaseHandle).scratch = s.scratch := by
  unfold State.releaseHandle; split <;> simp_all
@[simp] theorem State.releaseHandle_rd (s : State) : (s.releaseHandle).rd = s.rd := by
  unfold State.releaseHandle; split <;> simp_all
@[simp] theorem State.releaseHandle_rx (s : State) : (s.releaseHandle).rx = s.rx := by
  unfold State.releaseHandle; split <;> simp_all
@[simp] theorem State.releaseHandle_tev (s : State) : (s.releaseHandle).tev = s.tev ++ (if s.handle then [TEvent.flush, TEvent.close] else []) := by
  unfold State.releaseHandle; split <;> simp_all
@[simp] theorem State.releaseHandle_refused (s : State) : (s.releaseHandle).refused = s.refused := by
  unfold State.releaseHandle; split <;> simp_all
@[simp] theorem State.releaseHandle_tmr (s : State) : (s.releaseHandle).tmr = s.tmr := by
  unfold State.releaseHandle; split <;> simp_all
@[simp] theorem State.releaseHandle_cur (s : State) : (s.releaseHandle).cur = s.cur := by
  unfold State.releaseHandle; split <;> simp_all
@[simp] theorem State.releaseHandle_rsps (s : State) : (s.releaseHandle).rsps = s.rsps := by
  unfold State.releaseHandle; split <;> simp_all
@[simp] theorem State.releaseHandle_instream (s : State) : (s.releaseHandle).instream = s.instream := by
  unfold State.releaseHandle; split <;> simp_all
@[simp] theorem State.releaseHandle_accepted (s : State) : (s.releaseHandle).accepted = s.accepted := by
  unfold State.releaseHandle; split <;> simp_all
@[simp] theorem State.releaseHandle_popped (s : State) : (s.releaseHandle).popped = s.popped := by
  unfold State.releaseHandle; split <;> simp_all
@[simp] theorem State.releaseHandle_ownPop (s : State) : (s.releaseHandle).ownPop = s.ownPop := by
  unfold State.releaseHandle; split <;> simp_all
@[simp] theorem State.releaseHandle_sched (s : State) : (s.releaseHandle).sched = s.sched := by
  unfold State.releaseHandle; split <;> simp_all
@[simp] theorem State.releaseHandle_tick (s : State) : (s.releaseHandle).tick = s.tick := by
  unfold State.releaseHandle; split <;> simp_all

@[simp] theorem State.postResult_cfg (s : State) (res : Option Rsp) : (s.postResult res).cfg = s.cfg := by
  unfold State.postResult; split <;> rfl
@[simp] theorem State.postResult_debug (s : State) (res : Option Rsp) : (s.postResult res).debug = s.debug := by
  unfold State.postResult; split <;> rfl
@[simp] theorem State.postResult_mem (s : State) (res : Option Rsp) : (s.postResult res).mem = s.mem := by
  unfold State.postResult; split <;> rfl
@[simp] theorem State.postResult_head (s : State) (res : Option Rsp) : (s.postResult res).head = s.head := by
  unfold State.postResult; split <;> rfl
@[simp] theorem State.postResult_tail (s : State) (res : Option Rsp) : (s.postResult res).tail = s.tail := by
  unfold State.postResult; split <;> rfl
@[simp] theorem State.postResult_count (s : State) (res : Option Rsp) : (s.postResult res).count = s.count := by
  unfold State.postResult; split <;> rfl
@[simp] theorem State.postResult_fclosed (s : State) (res : Option Rsp) : (s.postResult res).fclosed = s.fclosed := by
  unfold State.postResult; split <;> rfl
@[simp] theorem State.postResult_ovf (s : State) (res : Option Rsp) : (s.postResult res).ovf = s.ovf := by
  unfold State.postResult; split <;> rfl
@[simp] theorem State.postResult_phase (s : State) (res : Option Rsp) : (s.postResult res).phase = s.phase := by
  unfold State.postResult; split <;> rfl
@[simp] theorem State.postResult_link (s : State) (res : Option Rsp) : (s.postResult res).link = s.link := by
  unfold State.postResult; split <;> rfl
@[simp] theorem State.postResult_handle (s : State) (res : Option Rsp) : (s.postResult res).handle = s.handle := by
  unfold State.postResult; split <;> rfl
@[simp] theorem State.postResult_attempt (s : State) (res : Option Rsp) : (s.postResult res).attempt = s.attempt := by
  unfold State.postResult; split <;> rfl
@[simp] theorem State.postResult_polls (s : State) (res : Option Rsp) : (s.postResult res).polls = s.polls := by
  unfold State.postResult; split <;> rfl
@[simp] theorem State.postResult_cancelReq (s : State) (res : Option Rsp) : (s.postResult res).cancelReq = s.cancelReq := by
  unfold State.postResult; split <;> rfl
@[simp] theorem State.postResult_connCaller (s : State) (res : Option Rsp) : (s.postResult res).connCaller = s.connCaller := by
  unfold State.postResult; split <;> rfl
@[simp] theorem State.postResult_connResult (s : State) (res : Option Rsp) : (s.postResult res).connResult = if s.connCaller.isSome then res else s.connResult := by
  unfold State.postResult; split <;> rfl
@[simp] theorem State.postResult_scratch (s : State) (res : Option Rsp) : (s.postResult res).scratch = s.scratch := by
  unfold State.postResult; split <;> rfl
@[simp] theorem State.postResult_rd (s : State) (res : Option Rsp) : (s.postResult res).rd = s.rd := by
  unfold State.postResult; split <;> rfl
@[simp] theorem State.postResult_rx (s : State) (res : Option Rsp) : (s.postResult res).rx = s.rx := by
  unfold State.postResult; split <;> rfl
@[simp] theorem State.postResult_tev (s : State) (res : Option Rsp) : (s.postResult res).tev = s.tev := by
  unfold State.postResult; split <;> rfl
@[simp] theorem State.postResult_refused (s : State) (res : Option Rsp) : (s.postResult res).refused = s.refused := by
  unfold State.postResult; split <;> rfl
@[simp] theorem State.postResult_tmr (s : State) (res : Option Rsp) : (s.postResult res).tmr = s.tmr := by
  unfold State.postResult; split <;> rfl
@[simp] theorem State.postResult_cur (s : State) (res : Option Rsp) : (s.postResult res).cur = s.cur := by
  unfold State.postResult; split <;> rfl
@[simp] theorem State.postResult_rsps (s : State) (res : Option Rsp) : (s.postResult res).rsps = s.rsps := by
  unfold State.postResult; split <;> rfl
@[simp] theorem State.postResult_instream (s : State) (res : Option Rsp) : (s.postResult res).instream = s.instream := by
  unfold State.postResult; split <;> rfl
@[simp] theorem State.postResult_accepted (s : State) (res : Option Rsp) : (s.postResult res).accepted = s.accepted := by
  unfold State.postResult; split <;> rfl
@[simp] theorem State.postResult_popped (s : State) (res : Option Rsp) : (s.postResult res).popped = s.popped := by
  unfold State.postResult; split <;> rfl
@[simp] theorem State.postResult_ownPop (s : State) (res : Option Rsp) : (s.postResult res).ownPop = s.ownPop := by
  unfold State.postResult; split <;> rfl
@[simp] theorem State.postResult_sched (s : State) (res : Option Rsp) : (s.postResult res).sched = s.sched := by
  unfold State.postResult; split <;> rfl
@[simp] theorem State.postResult_tick (s : State) (res : Option Rsp) : (s.postResult res).tick = s.tick := by
  unfold State.postResult; split <;> rfl

@[simp] theorem State.enterClosed_cfg (s : State) (res : Option Rsp) : (s.enterClosed res).cfg = s.cfg := by
  simp [State.enterClosed]
@[simp] theorem State.enterClosed_debug (s : State) (res : Option Rsp) : (s.enterClosed res).debug = s.debug := by
  simp [State.enterClosed]
@[simp] theorem State.enterClosed_mem (s : State) (res : Option Rsp) : (s.enterClosed res).mem = s.mem := by
  simp [State.enterClosed]
@[simp] theorem State.enterClosed_head (s : State) (res : Option Rsp) : (s.enterClosed res).head = s.head := by
  simp [State.enterClosed]
@[simp] theorem State.enterClosed_tail (s : State) (res : Option Rsp) : (s.enterClosed res).tail = s.tail := by
  simp [State.enterClosed]
@[simp] theorem State.enterClosed_count (s : State) (res : Option Rsp) : (s.enterClosed res).count = s.count := by
  simp [State.enterClosed]
@[simp] theorem State.enterClosed_fclosed (s : State) (res : Option Rsp) : (s.enterClosed res).fclosed = true := by
  simp [State.enterClosed]
@[simp] theorem State.enterClosed_ovf (s : State) (res : Option Rsp) : (s.enterClosed res).ovf = s.ovf := by
  simp [State.enterClosed]
@[simp] theorem State.enterClosed_phase (s : State) (res : Option Rsp) : (s.enterClosed res).phase = .idle := by
  simp [State.enterClosed]
@[simp] theorem State.enterClosed_link (s : State) (res : Option Rsp) : (s.enterClosed res).link = .closed := by
  simp [State.enterClosed]
@[simp] theorem State.enterClosed_handle (s : State) (res : Option Rsp) : (s.enterClosed res).handle = false := by
  simp [State.enterClosed]
@[simp] theorem State.enterClosed_attempt (s : State) (res : Option Rsp) : (s.enterClosed res).attempt = s.attempt := by
  simp [State.enterClosed]
@[simp] theorem State.enterClosed_polls (s : State) (res : Option Rsp) : (s.enterClosed res).polls = s.polls := by
  simp [State.enterClosed]
@[simp] theorem State.enterClosed_cancelReq (s : State) (res : Option Rsp) : (s.enterClosed res).cancelReq = false := by
  simp [State.enterClosed]
@[simp] theorem State.enterClosed_connCaller (s : State) (res : Option Rsp) : (s.enterClosed res).connCaller = s.connCaller := by
  simp [State.enterClosed]
@[simp] theorem State.enterClosed_connResult (s : State) (res : Option Rsp) : (s.enterClosed res).connResult = if s.connCaller.isSome then res else s.connResult := by
  simp [State.enterClosed]
@[simp] theorem State.enterClosed_scratch (s : State) (res : Option Rsp) : (s.enterClosed res).scratch = s.scratch := by
  simp [State.enterClosed]
@[simp] theorem State.enterClosed_rd (s : State) (res : Option Rsp) : (s.enterClosed res).rd = s.rd := by
  simp [State.enterClosed]
@[simp] theorem State.enterClosed_rx (s : State) (res : Option Rsp) : (s.enterClosed res).rx = s.rx := by
  simp [State.enterClosed]
@[simp] theorem State.enterClosed_tev (s : State) (res : Option Rsp) : (s.enterClosed res).tev = s.tev ++ (if s.handle then [TEvent.flush, TEvent.close] else []) := by
  simp [State.enterClosed]
@[simp] theorem State.enterClosed_refused (s : State) (res : Option Rsp) : (s.enterClosed res).refused = s.refused := by
  simp [State.enterClosed]
@[simp] theorem State.enterClosed_tmr (s : State) (res : Option Rsp) : (s.enterClosed res).tmr = none := by
  simp [State.enterClosed]
@[simp] theorem State.enterClosed_cur (s : State) (res : Option Rsp) : (s.enterClosed res).cur = s.cur := by
  simp [State.enterClosed]
@[simp] theorem State.enterClosed_rsps (s : State) (res : Option Rsp) : (s.enterClosed res).rsps = s.rsps := by
  simp [State.enterClosed]
@[simp] theorem State.enterClosed_instream (s : State) (res : Option Rsp) : (s.enterClosed res).instream = s.instream := by
  simp [State.enterClosed]
@[simp] theorem State.enterClosed_accepted (s : State) (res : Option Rsp) : (s.enterClosed res).accepted = s.accepted := by
  simp [State.enterClosed]
@[simp] theorem State.enterClosed_popped (s : State) (res : Option Rsp) : (s.enterClosed res).popped = s.popped := by
  simp [State.enterClosed]
@[simp] theorem State.enterClosed_ownPop (s : State) (res : Option Rsp) : (s.enterClosed res).ownPop = s.ownPop := by
  simp [State.enterClosed]
@[simp] theorem State.enterClosed_sched (s : State) (res : Option Rsp) : (s.enterClosed res).sched = s.sched := by
  simp [State.enterClosed]
@[simp] theorem State.enterClosed_tick (s : State) (res : Option Rsp) : (s.enterClosed res).tick = s.tick := by
  simp [State.enterClosed]

@[simp] theorem State.finishBurst_cfg (s : State) (r : RxRec) : (s.finishBurst r).cfg = s.cfg := by
  unfold State.finishBurst; split <;> simp
@[simp] theorem State.finishBurst_debug (s : State) (r : RxRec) : (s.finishBurst r).debug = s.debug := by
  unfold State.finishBurst; split <;> simp
@[simp] theorem State.finishBurst_mem (s : State) (r : RxRec) : (s.finishBurst r).mem = s.mem := by
  unfold State.finishBurst; split <;> simp
@[simp] theorem State.finishBurst_head (s : State) (r : RxRec) : (s.finishBurst r).head = s.head := by
  unfold State.finishBurst; split <;> simp
@[simp] theorem State.finishBurst_tail (s : State) (r : RxRec) : (s.finishBurst r).tail = s.tail := by
  unfold State.finishBurst; split <;> simp
@[simp] theorem State.finishBurst_count (s : State) (r : RxRec) : (s.finishBurst r).count = s.count := by
  unfold State.finishBurst; split <;> simp
@[simp] theorem State.finishBurst_fclosed (s : State) (r : RxRec) : (s.finishBurst r).fclosed = s.fclosed := by
  unfold State.finishBurst; split <;> simp
@[simp] theorem State.finishBurst_ovf (s : State) (r : RxRec) : (s.finishBurst r).ovf = s.ovf := by
  unfold State.finishBurst; split <;> simp
@[simp] theorem State.finishBurst_phase (s : State) (r : RxRec) : (s.finishBurst r).phase = s.phase := by
  unfold State.finishBurst; split <;> simp
@[simp] theorem State.finishBurst_link (s : State) (r : RxRec) : (s.finishBurst r).link = s.link := by
  unfold State.finishBurst; split <;> simp
@[simp] theorem State.finishBurst_handle (s : State) (r : RxRec) : (s.finishBurst r).handle = s.handle := by
  unfold State.finishBurst; split <;> simp
@[simp] theorem State.finishBurst_attempt (s : State) (r : RxRec) : (s.finishBurst r).attempt = s.attempt := by
  unfold State.finishBurst; split <;> simp
@[simp] theorem State.finishBurst_polls (s : State) (r : RxRec) : (s.finishBurst r).polls = s.polls := by
  unfold State.finishBurst; split <;> simp
@[simp] theorem State.finishBurst_cancelReq (s : State) (r : RxRec) : (s.finishBurst r).cancelReq = s.cancelReq := by
  unfold State.finishBurst; split <;> simp
@[simp] theorem State.finishBurst_connCaller (s : State) (r : RxRec) : (s.finishBurst r).connCaller = s.connCaller := by
  unfold State.finishBurst; split <;> simp
@[simp] theorem State.finishBurst_connResult (s : State) (r : RxRec) : (s.finishBurst r).connResult = s.connResult := by
  unfold State.finishBurst; split <;> simp
@[simp] theorem State.finishBurst_scratch (s : State) (r : RxRec) : (s.finishBurst r).scratch = s.scratch := by
  unfold State.finishBurst; split <;> simp
@[simp] theorem State.finishBurst_rd (s : State) (r : RxRec) : (s.finishBurst r).rd = s.rd := by
  unfold State.finishBurst; split <;> simp
@[simp] theorem State.finishBurst_rx (s : State) (r : RxRec) : (s.finishBurst r).rx = if r.rem = [] then none else some r := by
  unfold State.finishBurst; split <;> simp
@[simp] theorem State.finishBurst_tev (s : State) (r : RxRec) : (s.finishBurst r).tev = s.tev := by
  unfold State.finishBurst; split <;> simp
@[simp] theorem State.finishBurst_refused (s : State) (r : RxRec) : (s.finishBurst r).refused = s.refused := by
  unfold State.finishBurst; split <;> simp
@[simp] theorem State.finishBurst_tmr (s : State) (r : RxRec) : (s.finishBurst r).tmr = s.tmr := by
  unfold State.finishBurst; split <;> simp
@[simp] theorem State.finishBurst_cur (s : State) (r : RxRec) : (s.finishBurst r).cur = s.cur := by
  unfold State.finishBurst; split <;> simp
@[simp] theorem State.finishBurst_rsps (s : State) (r : RxRec) : (s.finishBurst r).rsps = if r.rem = [] then s.rsps ++ [(.rx, { st := r.st.toStatus, val := countVal r.acc })] else s.rsps := by
  unfold State.finishBurst; split <;> simp
@[simp] theorem State.finishBurst_instream (s : State) (r : RxRec) : (s.finishBurst r).instream = s.instream := by
  unfold State.finishBurst; split <;> simp
@[simp] theorem State.finishBurst_accepted (s : State) (r : RxRec) : (s.finishBurst r).accepted = s.accepted := by
  unfold State.finishBurst; split <;> simp
@[simp] theorem State.finishBurst_popped (s : State) (r : RxRec) : (s.finishBurst r).popped = s.popped := by
  unfold State.finishBurst; split <;> simp
@[simp] theorem State.finishBurst_ownPop (s : State) (r : RxRec) : (s.finishBurst r).ownPop = s.ownPop := by
  unfold State.finishBurst; split <;> simp
@[simp] theorem State.finishBurst_sched (s : State) (r : RxRec) : (s.finishBurst r).sched = s.sched := by
  unfold State.finishBurst; split <;> simp
@[simp] theorem State.finishBurst_tick (s : State) (r : RxRec) : (s.finishBurst r).tick = s.tick := by
  unfold State.finishBurst; split <;> simp

end Sys2Proof.Machine
end

