-- ==== Sys2Proof/Laws/Fifo.lean ====
section
/-! SUPPORT. The ring buffer denotes a queue: what an accept and a POP do to the content (10_state.md rule R26,
40_fifo_ops.md rules R112, R118). -/

namespace Sys2Proof.Machine

theorem ringNext_toNat {i c : Half} (h : 0 < c.toNat) : (ringNext i c).toNat = (i.toNat + 1) % c.toNat := by
  have h₁ : (i.toNat + 1) % c.toNat < c.toNat := Nat.mod_lt _ h
  have h₂ := c.isLt
  simp only [ringNext, BitVec.toNat_ofNat]
  exact Nat.mod_eq_of_lt (by omega)

theorem ringNext_lt {i c : Half} (h : 0 < c.toNat) : (ringNext i c).toNat < c.toNat := by
  rw [ringNext_toNat h]
  exact Nat.mod_lt _ h

/-- Distinct offsets below the capacity name distinct indices. -/
theorem ring_offset_ne {c h i j : Nat} (hi : i < j) (hj : j < c) : (h + i) % c ≠ (h + j) % c := by
  intro e
  have e' : i ≡ j [MOD c] := Nat.ModEq.add_left_cancel' h e
  have := Nat.ModEq.eq_of_lt_of_lt e' (by omega) hj
  omega

/-- The content of a ring: `n` bytes from index `h` in a storage of `c` bytes. -/
def ringContent (m : Memory) (h n c : Nat) : List Byte := (List.range n).filterMap fun i => m.read ((h + i) % c)

theorem queue_eq_ringContent (s : State) :
    s.queue = ringContent s.mem s.head.toNat s.count.toNat s.cfg.depth.toNat := rfl

theorem ringContent_zero (m : Memory) (h c : Nat) : ringContent m h 0 c = [] := rfl

theorem ringContent_length_le (m : Memory) (h n c : Nat) : (ringContent m h n c).length ≤ n := by
  simpa [ringContent] using List.length_filterMap_le (fun i => m.read ((h + i) % c)) (List.range n)

theorem ringContent_succ (m : Memory) (h n c : Nat) :
    ringContent m h (n + 1) c = (m.read (h % c)).toList ++ ringContent m ((h + 1) % c) n c := by
  simp only [ringContent, List.range_succ_eq_map, List.filterMap_cons, Nat.add_zero, List.filterMap_map]
  have e : ((fun i => m.read ((h + i) % c)) ∘ Nat.succ) = fun i => m.read (((h + 1) % c + i) % c) := by
    funext i
    simp only [Function.comp, Nat.succ_eq_add_one, Nat.mod_add_mod]
    congr 2
    omega
  rw [e]
  cases m.read (h % c) <;> rfl

/-- Writing at the tail appends one byte to the content. -/
theorem ringContent_write {m : Memory} {h n c : Nat} (b : Byte) (hn : n < c) :
    ringContent (m.write ((h + n) % c) b) h (n + 1) c = ringContent m h n c ++ [b] := by
  simp only [ringContent, List.range_succ, List.filterMap_append, List.filterMap_cons, List.filterMap_nil,
    Memory.read_write_same]
  congr 1
  apply List.filterMap_congr
  intro i hi
  exact Memory.read_write_ne m b (ring_offset_ne (List.mem_range.1 hi) hn)

theorem FifoInv.tail_lt {s : State} (h : FifoInv s) : s.tail.toNat < s.cfg.depth.toNat := by
  rw [h.tail_eq]
  exact Nat.mod_lt _ h.depth_pos

theorem count_add_one {c d : Half} (h : c.toNat < d.toNat) : (c + 1#16).toNat = c.toNat + 1 := by
  have := d.isLt
  rw [BitVec.toNat_add]
  simp only [BitVec.toNat_ofNat]
  omega

theorem count_sub_one {c : Half} (h : c ≠ 0#16) : (c - 1#16).toNat = c.toNat - 1 := by
  have h₁ : c.toNat ≠ 0 := fun e => h (BitVec.eq_of_toNat_eq (by simpa using e))
  have h₂ := c.isLt
  rw [BitVec.toNat_sub]
  simp only [BitVec.toNat_ofNat]
  omega

theorem count_toNat_pos {c : Half} (h : c ≠ 0#16) : 0 < c.toNat := by
  have h₁ : c.toNat ≠ 0 := fun e => h (BitVec.eq_of_toNat_eq (by simpa using e))
  omega

/-- The state after `b` is stored at the tail (40_fifo_ops.md R112), before the burst's record moves on. -/
def State.stored (s : State) (b : Byte) : State :=
  { s with
    mem := s.mem.write s.tail.toNat b
    tail := ringNext s.tail s.cfg.depth
    count := s.count + 1#16
    accepted := s.accepted ++ [b] }

/-- The state after a POP that returned `b` (R118). -/
def State.taken (s : State) (b : Byte) : State :=
  { s with head := ringNext s.head s.cfg.depth, count := s.count - 1#16, popped := s.popped ++ [b] }

/-- Every case of `push1` with its condition (40_fifo_ops.md R111). -/
theorem push1_cases (s : State) :
    (s.push1 = .rejectClosed ∧ s.fclosed = true) ∨
      (s.fclosed = false ∧
        ((s.push1 = .accept ∧ s.count.toNat < s.cfg.depth.toNat) ∨
          (s.cfg.depth.toNat ≤ s.count.toNat ∧
            ((s.push1 = .dropped ∧ s.cfg.policy = .drop) ∨ (s.push1 = .hold ∧ s.cfg.policy = .block))))) := by
  unfold State.push1
  cases s.fclosed
  · by_cases hc : s.count.toNat < s.cfg.depth.toNat
    · simp [hc]
    · have hd : s.cfg.depth.toNat ≤ s.count.toNat := by omega
      cases s.cfg.policy <;> simp [hc, hd]
  · simp

/-- Accepting a byte in a state that meets the invariant never faults. -/
theorem acceptByte_eq {s : State} (h : FifoInv s) (b : Byte) (r : RxRec) :
    s.acceptByte b r = .next ((s.stored b).finishBurst { r with rem := r.rem.tail, acc := r.acc + 1 }) := by
  simp [State.acceptByte, State.memWrite, h.tail_lt, State.stored]

/-- What an accept can answer, in every state. -/
theorem acceptByte_cases {s t : State} {b : Byte} {r : RxRec} (h : s.acceptByte b r = .next t) :
    t = (s.stored b).finishBurst { r with rem := r.rem.tail, acc := r.acc + 1 } := by
  simp only [State.acceptByte, State.memWrite] at h
  split at h
  · cases h
  · rename_i heq
    split at heq
    · cases heq
      cases h
      rfl
    · cases heq

theorem queue_stored {s : State} (h : FifoInv s) (b : Byte) (hc : s.count.toNat < s.cfg.depth.toNat) :
    (s.stored b).queue = s.queue ++ [b] := by
  simp only [queue_eq_ringContent, State.stored, count_add_one hc, h.tail_eq]
  exact ringContent_write b hc

/-- In a state that meets the invariant, the oldest byte of a nonempty FIFO is the one stored at `head`. -/
theorem head_read {s : State} (h : FifoInv s) (hc : s.count ≠ 0#16) :
    ∃ b q, s.mem.read s.head.toNat = some b ∧ s.queue = b :: q := by
  have hq := h.queue_length
  have hp := count_toNat_pos hc
  obtain ⟨n, hn⟩ : ∃ n, s.count.toNat = n + 1 := ⟨s.count.toNat - 1, by omega⟩
  rw [queue_eq_ringContent, hn, ringContent_succ, Nat.mod_eq_of_lt h.head_lt] at hq
  rw [queue_eq_ringContent, hn, ringContent_succ, Nat.mod_eq_of_lt h.head_lt]
  cases hr : s.mem.read s.head.toNat with
  | none =>
    rw [hr] at hq
    have := ringContent_length_le s.mem ((s.head.toNat + 1) % s.cfg.depth.toNat) n s.cfg.depth.toNat
    simp at hq
    omega
  | some b => exact ⟨b, _, rfl, rfl⟩

theorem queue_taken {s : State} {b : Byte} {q : List Byte} (h : FifoInv s) (hq : s.queue = b :: q) :
    (s.taken b).queue = q := by
  have hc : s.count ≠ 0#16 := by
    intro e
    have := h.queue_length
    simp [hq, e] at this
  have hp := count_toNat_pos hc
  obtain ⟨n, hn⟩ : ∃ n, s.count.toNat = n + 1 := ⟨s.count.toNat - 1, by omega⟩
  have hl := h.queue_length
  rw [queue_eq_ringContent, hn, ringContent_succ] at hq
  rw [queue_eq_ringContent, hn, ringContent_succ] at hl
  have e : (s.taken b).queue
      = ringContent s.mem ((s.head.toNat + 1) % s.cfg.depth.toNat) n s.cfg.depth.toNat := by
    simp [queue_eq_ringContent, State.taken, ringNext_toNat h.depth_pos, count_sub_one hc, hn]
  rw [e]
  cases hr : s.mem.read (s.head.toNat % s.cfg.depth.toNat) with
  | none =>
    rw [hr] at hl
    have := ringContent_length_le s.mem ((s.head.toNat + 1) % s.cfg.depth.toNat) n s.cfg.depth.toNat
    simp at hl
    omega
  | some c =>
    rw [hr] at hq
    simp only [Option.toList_some, List.singleton_append, List.cons.injEq] at hq
    exact hq.2

/-- The content is empty exactly when `count` is 0. -/
theorem queue_nil_iff {s : State} (h : FifoInv s) : s.queue = [] ↔ s.count = 0#16 := by
  rw [← List.length_eq_zero_iff, h.queue_length]
  constructor
  · intro e
    exact BitVec.eq_of_toNat_eq (by simpa using e)
  · intro e
    simp [e]

/-- POP at a nonempty FIFO (40_fifo_ops.md R118). -/
theorem fifoPop_cons {s : State} {b : Byte} {q : List Byte} (h : FifoInv s) (hq : s.queue = b :: q) :
    s.fifoPop = .byte b (s.taken b) := by
  have hc : s.count ≠ 0#16 := fun e => by simp [(queue_nil_iff h).2 e] at hq
  obtain ⟨b', q', hr, hq'⟩ := head_read h hc
  have : b' = b := by
    rw [hq'] at hq
    exact (List.cons.inj hq).1
  subst this
  simp [State.fifoPop, hc, State.memRead, h.head_lt, hr, State.taken]

/-- POP at an empty FIFO (40_fifo_ops.md R119, R120). -/
theorem fifoPop_nil {s : State} (h : s.count = 0#16) :
    s.fifoPop = if s.fclosed then PopResult.closed else PopResult.empty := by
  simp [State.fifoPop, h]

/-- What a POP can answer, in every state. -/
theorem fifoPop_byte {s t : State} {b : Byte} (h : s.fifoPop = .byte b t) :
    s.count ≠ 0#16 ∧ s.head.toNat < s.cfg.depth.toNat ∧ s.mem.read s.head.toNat = some b ∧ t = s.taken b := by
  simp only [State.fifoPop, State.memRead] at h
  split at h
  · rename_i hc
    split at h
    · rename_i heq
      split at heq
      · rename_i hlt
        split at heq
        · rename_i hr
          cases heq
          cases h
          exact ⟨hc, hlt, hr, rfl⟩
        · cases heq
      · cases heq
    · cases h
  · split at h <;> cases h

theorem fifoPop_closed {s : State} (h : s.fifoPop = .closed) : s.count = 0#16 ∧ s.fclosed = true := by
  simp only [State.fifoPop] at h
  split at h
  · split at h <;> cases h
  · rename_i hc
    split at h
    · rename_i hf
      exact ⟨by simpa using hc, hf⟩
    · cases h

theorem fifoPop_empty {s : State} (h : s.fifoPop = .empty) : s.count = 0#16 ∧ s.fclosed = false := by
  simp only [State.fifoPop] at h
  split at h
  · split at h <;> cases h
  · rename_i hc
    split at h
    · cases h
    · rename_i hf
      exact ⟨by simpa using hc, by simpa using hf⟩

/-- POP never faults in a state that meets the invariant. -/
theorem fifoPop_no_fault {s : State} (h : FifoInv s) (f : Fault) : s.fifoPop ≠ .fault f := by
  by_cases hc : s.count = 0#16
  · rw [fifoPop_nil hc]
    split <;> simp
  · obtain ⟨b, q, -, hq⟩ := head_read h hc
    rw [fifoPop_cons h hq]
    simp

/-- The byte a POP returns is the oldest. -/
theorem fifoPop_byte_queue {s t : State} {b : Byte} (hi : FifoInv s) (h : s.fifoPop = .byte b t) :
    s.queue = b :: t.queue := by
  obtain ⟨hc, -, hr, rfl⟩ := fifoPop_byte h
  obtain ⟨b', q, hr', hq⟩ := head_read hi hc
  have : b' = b := by simpa [hr] using hr'.symm
  subst this
  rw [hq, queue_taken hi hq]

end Sys2Proof.Machine
end

