-- ==== Sys2Proof/Laws/PerInstr.lean ====
section
/-! SUPPORT. Statements for all commands, one lemma per constructor of Instr. -/

namespace Sys2Proof.Laws.HomePort

/-- The opcode of a command's word belongs to the command's own port (30_encoding.md R84). -/
def Statement (i : Instr) : Prop := homePort (encode i) = i.port

theorem push (d : Byte) : Statement (.push d) := by
  have h : opField (encode (.push d)) = 1#4 := by
    rw [show encode (.push d) = 1#4 ++ (0#4 ++ d) from ?_]
    · exact opField_append _ _
    · revert d
      decide
  simp [Statement, homePort, h, rowOf, Instr.port]

theorem pushm (n : Nat) : Statement (.pushm n) := by
  simp [Statement, homePort, encode_pushm_opField, rowOf, Instr.port]

theorem pop : Statement .pop := rfl

theorem fclose : Statement .fclose := rfl

theorem connect : Statement .connect := rfl

theorem close : Statement .close := rfl

theorem cancel : Statement .cancel := rfl

theorem rds8 : Statement .rds8 := rfl

theorem rdu8 : Statement .rdu8 := rfl

theorem rds16 : Statement .rds16 := rfl

theorem rdu16 : Statement .rdu16 := rfl

theorem wrb : Statement .wrb := rfl

theorem wrbs (len : Nat) : Statement (.wrbs len) := by
  have h : opField (encode (.wrbs len)) = 13#4 := by
    have e : encode (.wrbs len) = 13#4 ++ (0#7 ++ BitVec.ofNat 5 len) := by
      simp only [encode]
      generalize BitVec.ofNat 5 len = l
      revert l
      decide
    rw [e]
    exact opField_append _ _
  simp [Statement, homePort, h, rowOf, Instr.port]

theorem wrs16 : Statement .wrs16 := rfl

theorem wru16 : Statement .wru16 := rfl

end Sys2Proof.Laws.HomePort
end

