-- ==== Sys2Proof/Laws/Step.lean ====
section
/-! SUPPORT. What one step can do: the inversion lemma of `step`, of every command and of every agent's step, and
their views on the FIFO. Later proofs cite these and do not unfold `step`. -/

namespace Sys2Proof.Machine

/-- Everything a step from `s` to `t` can be. -/
inductive StepCase (s t : State) : Prop where
  | hold (he : s.advance.enabled s.nextMove = false) (ht : t = s.advance)
  | command (c : Cmd) (i : Instr) (hm : s.nextMove = .issue c) (he : s.advance.canIssue c = true)
      (hd : decode c.agent.port c.cw = .command i) (hx : exec i (s.advance.present c) = .next t)
  | illegal (c : Cmd) (why : IllegalReason) (hm : s.nextMove = .issue c) (he : s.advance.canIssue c = true)
      (hd : decode c.agent.port c.cw = .illegal why) (ht : t = s.advance.raise c.agent .illegalCommand)
  | rx (hm : s.nextMove = .rxStep) (he : s.advance.rxReady = true) (hx : rxStep s.advance = .next t)
  | own (hm : s.nextMove = .ownStep) (ho : s.ownPop.isSome = true) (he : s.advance.popReady = true)
      (hx : ownStep s.advance = .next t)
  | read (hm : s.nextMove = .readStep) (hr : s.rd.isSome = true) (he : s.advance.popReady = true)
      (hx : readStep s.advance = .next t)
  | conn (hm : s.nextMove = .connDone) (hx : connDone s.advance = .next t)
  | seq (answer : Bool) (d : WriteDraw) (hm : s.nextMove = .seqStep answer d) (he : s.advance.seqReady = true)
      (hx : seqStep answer d s.advance = .next t)
  | cancel (hm : s.nextMove = .cancelStep) (he : s.advance.cancelReady = true)
      (ht : t = s.advance.enterClosed (some (errorRsp (.connectionFailed .cancelled))))
  | tmr (hm : s.nextMove = .tmrStep) (he : s.advance.tmrReady = true) (hx : tmrStep s.advance = .next t)

theorem step_cases {s t : State} (h : step s = .next t) : StepCase s t := by
  unfold step State.fetch at h
  by_cases he : s.advance.enabled s.nextMove = true
  · rw [if_pos he] at h
    cases hm : s.nextMove with
    | issue c =>
      rw [hm] at h he
      simp only [State.perform, State.issueCommand] at h
      cases hd : decode c.agent.port c.cw with
      | command i =>
        rw [hd] at h
        exact .command c i hm he hd h
      | illegal why =>
        rw [hd] at h
        simp only [Host.Outcome.next.injEq] at h
        exact .illegal c why hm he hd h.symm
    | rxStep =>
      rw [hm] at h he
      exact .rx hm he h
    | ownStep =>
      rw [hm] at h he
      simp only [State.enabled, Bool.and_eq_true, State.advance_ownPop] at he
      exact .own hm he.1 he.2 h
    | readStep =>
      rw [hm] at h he
      simp only [State.enabled, Bool.and_eq_true, State.advance_rd] at he
      exact .read hm he.1 he.2 h
    | connDone =>
      rw [hm] at h
      exact .conn hm h
    | seqStep answer d =>
      rw [hm] at h he
      exact .seq answer d hm he h
    | cancelStep =>
      rw [hm] at h he
      simp only [State.perform, cancelStep, Host.Outcome.next.injEq] at h
      exact .cancel hm he h.symm
    | tmrStep =>
      rw [hm] at h he
      exact .tmr hm he h
  · rw [if_neg he] at h
    simp only [State.hold_eq, Host.Outcome.next.injEq] at h
    exact .hold (by simpa using he) h.symm

/-- A command run by `step` is run by `exec` from its presented state. -/
theorem step_issue {s : State} {c : Cmd} {i : Instr} (hm : s.nextMove = .issue c)
    (he : s.advance.canIssue c = true) (hd : decode c.agent.port c.cw = .command i) :
    step s = exec i (s.advance.present c) := by
  unfold step State.fetch
  rw [hm, if_pos (show s.advance.enabled (.issue c) = true from he)]
  simp [State.perform, State.issueCommand, hd]

/-- An enabled move is performed after it is taken off the schedule. -/
theorem step_perform {s : State} {m : Move} (hm : s.nextMove = m) (he : s.advance.enabled m = true) :
    step s = match s.advance.perform m with
      | .run i t => exec i t
      | .done outcome => outcome := by
  have h : s.fetch = s.advance.perform m := by simp [State.fetch, hm, he]
  cases hp : s.advance.perform m <;> simp [step, h, hp]

/-- A move that is not enabled changes nothing but the schedule. -/
theorem step_hold {s : State} (he : s.advance.enabled s.nextMove = false) : step s = .next s.advance := by
  unfold step State.fetch
  rw [if_neg (by simp [he])]
  rfl

/-! ### One inversion lemma per command -/

theorem startBurst_cons (s : State) (b : Byte) (bs : List Byte) :
    s.startBurst (b :: bs)
      = { s with rx := some { rem := b :: bs, acc := 0, st := .ok }, instream := s.instream ++ (b :: bs) } := rfl

theorem startBurst_nil (s : State) : s.startBurst [] = s.complete s.cur.agent 0#32 := rfl

theorem execPush_cases {d : Byte} {s t : State} (h : exec (.push d) s = .next t) :
    (s.rx.isSome = true ∧ t = s) ∨
      (s.rx = none ∧ t = { s with rx := some { rem := [d], acc := 0, st := .ok }, instream := s.instream ++ [d] }) := by
  simp only [exec, execPush] at h
  split at h
  · rename_i hr
    exact .inl ⟨hr, by simpa using h.symm⟩
  · rename_i hr
    exact .inr ⟨by simpa using hr, by simpa [startBurst_cons] using h.symm⟩

theorem execPushm_cases {n : Nat} {s t : State} (h : exec (.pushm n) s = .next t) :
    (s.rx.isSome = true ∧ t = s) ∨ (s.rx = none ∧ s.cur.burst.length ≠ n ∧ t = s.refuse) ∨
      (s.rx = none ∧ s.cur.burst.length = n ∧ t = s.startBurst s.cur.burst) := by
  simp only [exec, execPushm] at h
  split at h
  · rename_i hr
    exact .inl ⟨hr, by simpa using h.symm⟩
  · rename_i hr
    have hr' : s.rx = none := by simpa using hr
    split at h
    · rename_i hn
      exact .inr (.inl ⟨hr', hn, by simpa using h.symm⟩)
    · rename_i hn
      exact .inr (.inr ⟨hr', by simpa using hn, by simpa using h.symm⟩)

theorem execPop_cases {s t : State} (h : exec .pop s = .next t) :
    (∃ b u, s.fifoPop = .byte b u ∧ t = u.complete s.cur.agent (zextByte b)) ∨
      (s.fifoPop = .closed ∧ t = s.raise s.cur.agent .channelClosed) ∨
      (s.fifoPop = .empty ∧ t = { s with ownPop := some s.cur.agent }) := by
  simp only [exec, execPop] at h
  cases hp : s.fifoPop with
  | byte b u =>
    rw [hp] at h
    simp only [Host.Outcome.next.injEq] at h
    exact .inl ⟨b, u, rfl, h.symm⟩
  | closed =>
    rw [hp] at h
    simp only [Host.Outcome.next.injEq] at h
    exact .inr (.inl ⟨rfl, h.symm⟩)
  | empty =>
    rw [hp] at h
    simp only [Host.Outcome.next.injEq] at h
    exact .inr (.inr ⟨rfl, h.symm⟩)
  | fault f =>
    rw [hp] at h
    cases h

theorem startRead_cases (s : State) (k : ReadKind) :
    (s.startRead k = s.refuse ∧ (s.typedAllowed = false ∨ s.rd.isSome = true)) ∨
      (s.startRead k = { s with rd := some { agent := s.cur.agent, kind := k, hi := none } } ∧
        s.typedAllowed = true ∧ s.rd = none) := by
  unfold State.startRead
  cases h : s.typedAllowed
  · exact .inl ⟨rfl, .inl rfl⟩
  · cases hr : s.rd with
    | some r => exact .inl ⟨by simp, .inr rfl⟩
    | none => exact .inr ⟨by simp, rfl, rfl⟩

/-- Everything a typed write can leave: a refusal, a response with nothing sent, or one transport write call. -/
theorem typedWrite_cases (s : State) (k : OperandCheck) :
    s.typedWrite k = s.refuse ∨ (∃ r, s.typedWrite k = s.respond s.cur.agent r) ∨
      (s.link = .ready ∧ ∃ bs d r, bs ≠ [] ∧ s.typedWrite k = (s.txWrite bs d).respond s.cur.agent r) := by
  unfold State.typedWrite
  cases ha : s.typedAllowed
  · exact .inl rfl
  · cases k with
    | refuse => exact .inl rfl
    | invalid => exact .inr (.inl ⟨_, rfl⟩)
    | send bs =>
      by_cases hl : s.link = .closed
      · exact .inr (.inl ⟨{ st := .channelClosed, val := 0#32 }, by simp [hl, State.raise]⟩)
      · have hr : s.link = .ready := by
          simp only [State.typedAllowed, Bool.or_eq_true, beq_iff_eq] at ha
          exact ha.resolve_right hl
        by_cases hb : bs = []
        · exact .inr (.inl ⟨{ st := .ok, val := 0#32 }, by simp [hl, State.sendBytes, hb, State.complete]⟩)
        · refine .inr (.inr ⟨hr, ?_⟩)
          cases hd : s.cur.draw with
          | ok =>
            exact ⟨bs, .ok, { st := .ok, val := countVal bs.length }, hb,
              by simp [hl, State.sendBytes, hb, hd, State.complete]⟩
          | fail k =>
            exact ⟨bs, .fail k, { st := .transportIo, val := 0#32 }, hb,
              by simp [hl, State.sendBytes, hb, hd, State.raise]⟩

/-- Everything a command that runs from `s` to `t` can do: one constructor per effect. -/
inductive ExecCase (s t : State) : Instr → Prop where
  | respond (i : Instr) (a : Issuer) (r : Rsp) (ht : t = s.respond a r) : ExecCase s t i
  | refuse (i : Instr) (ht : t = s.refuse) : ExecCase s t i
  | same (i : Instr) (ht : t = s) : ExecCase s t i
  | burst (i : Instr) (bs : List Byte) (hb : bs ≠ []) (hr : s.rx = none)
      (hi : (∃ d, i = .push d ∧ bs = [d]) ∨ (i = .pushm bs.length ∧ bs = s.cur.burst))
      (ht : t = { s with rx := some { rem := bs, acc := 0, st := .ok }, instream := s.instream ++ bs }) :
      ExecCase s t i
  | pop (b : Byte) (u : State) (hp : s.fifoPop = .byte b u) (ht : t = u.complete s.cur.agent (zextByte b)) :
      ExecCase s t .pop
  | popHold (hp : s.fifoPop = .empty) (ht : t = { s with ownPop := some s.cur.agent }) : ExecCase s t .pop
  | fclose (ht : t = s.closeFifo.complete s.cur.agent 0#32) : ExecCase s t .fclose
  | connect (hl : s.link = .unopened)
      (ht : t =
        { s with
          link := .opening
          phase := .openPort
          attempt := 1#2
          polls := 0
          cancelReq := false
          connCaller := some s.cur.agent
          connResult := none }) : ExecCase s t .connect
  | close (res : Option Rsp) (hl : s.link ≠ .closed)
      (hr : (s.connecting = true ∧ res = some (errorRsp (.connectionFailed .closed))) ∨
        (s.connecting = false ∧ res = none))
      (ht : t = (s.enterClosed res).complete s.cur.agent 0#32) : ExecCase s t .close
  | cancel (hc : s.connecting = true) (ht : t = { s with cancelReq := true }.complete s.cur.agent 1#32) :
      ExecCase s t .cancel
  | read (i : Instr) (k : ReadKind) (hi : i.port = .app) (ha : s.typedAllowed = true) (hr : s.rd = none)
      (ht : t = { s with rd := some { agent := s.cur.agent, kind := k, hi := none } }) : ExecCase s t i
  | write (i : Instr) (bs : List Byte) (d : WriteDraw) (r : Rsp) (hl : s.link = .ready)
      (ht : t = (s.txWrite bs d).respond s.cur.agent r) : ExecCase s t i

theorem startRead_case {s t : State} {i : Instr} (k : ReadKind) (hi : i.port = .app)
    (h : t = s.startRead k) : ExecCase s t i := by
  rcases startRead_cases s k with ⟨e, -⟩ | ⟨e, h1, h2⟩
  · exact .refuse i (h.trans e)
  · exact .read i k hi h1 h2 (h.trans e)

theorem typedWrite_case {s t : State} {i : Instr} (k : OperandCheck) (h : t = s.typedWrite k) : ExecCase s t i := by
  rcases typedWrite_cases s k with e | ⟨r, e⟩ | ⟨h1, bs, d, r, -, e⟩
  · exact .refuse i (h.trans e)
  · exact .respond i _ r (h.trans e)
  · exact .write i bs d r h1 (h.trans e)

/-- The inversion lemma of every command. -/
theorem exec_cases {i : Instr} {s t : State} (h : exec i s = .next t) : ExecCase s t i := by
  cases i with
  | push d =>
    rcases execPush_cases h with ⟨-, rfl⟩ | ⟨hr, e⟩
    · exact .same _ rfl
    · exact .burst _ [d] (by simp) hr (.inl ⟨d, rfl, rfl⟩) e
  | pushm n =>
    rcases execPushm_cases h with ⟨-, rfl⟩ | ⟨-, -, rfl⟩ | ⟨hr, hn, e⟩
    · exact .same _ rfl
    · exact .refuse _ rfl
    · cases hb : s.cur.burst with
      | nil => rw [hb, startBurst_nil] at e; exact .respond _ _ _ e
      | cons b bs =>
        rw [hb, startBurst_cons] at e
        exact .burst _ (b :: bs) (by simp) hr (.inr ⟨by rw [← hn, hb], hb.symm⟩) e
  | pop =>
    rcases execPop_cases h with ⟨b, u, hp, e⟩ | ⟨-, e⟩ | ⟨hp, e⟩
    · exact .pop b u hp e
    · exact .respond _ _ _ e
    · exact .popHold hp e
  | fclose =>
    simp only [exec, execFclose, Host.Outcome.next.injEq] at h
    exact .fclose h.symm
  | connect =>
    simp only [exec, execConnect] at h
    split at h <;> simp only [Host.Outcome.next.injEq] at h
    · rename_i hl; exact .connect hl h.symm
    · exact .respond _ _ _ h.symm
    all_goals exact .refuse _ h.symm
  | close =>
    simp only [exec, execClose] at h
    split at h <;> simp only [Host.Outcome.next.injEq] at h
    · exact .respond _ _ _ h.symm
    all_goals rename_i hl
    · exact .close _ (by simp [hl]) (.inl ⟨by simp [State.connecting, hl], rfl⟩) h.symm
    · exact .close _ (by simp [hl]) (.inl ⟨by simp [State.connecting, hl], rfl⟩) h.symm
    · exact .close _ (by simp [hl]) (.inr ⟨by simp [State.connecting, hl], rfl⟩) h.symm
    · exact .close _ (by simp [hl]) (.inr ⟨by simp [State.connecting, hl], rfl⟩) h.symm
  | cancel =>
    simp only [exec, execCancel] at h
    split at h <;> simp only [Host.Outcome.next.injEq] at h
    · rename_i hc; exact .cancel hc h.symm
    · exact .respond _ _ _ h.symm
  | rds8 => exact startRead_case .s8 rfl (by simpa [exec, execRds8] using h.symm)
  | rdu8 => exact startRead_case .u8 rfl (by simpa [exec, execRdu8] using h.symm)
  | rds16 => exact startRead_case .s16 rfl (by simpa [exec, execRds16] using h.symm)
  | rdu16 => exact startRead_case .u16 rfl (by simpa [exec, execRdu16] using h.symm)
  | wrb => exact typedWrite_case (checkWrb s.cur.arg) (by simpa [exec, execWrb] using h.symm)
  | wrbs len => exact typedWrite_case (checkWrbs s.cfg.maxCmd.toNat len s.cur.arg s.cur.values) (by simpa [exec, execWrbs] using h.symm)
  | wrs16 => exact typedWrite_case (checkWrs16 s.cur.arg) (by simpa [exec, execWrs16] using h.symm)
  | wru16 => exact typedWrite_case (checkWru16 s.cur.arg) (by simpa [exec, execWru16] using h.symm)

/-! ### The agents' steps -/

/-- Everything a push1 micro-step can do. -/
theorem rxStep_cases {s t : State} (h : rxStep s = .next t) :
    (t = s ∧ s.rxReady = false) ∨
      ∃ r b, s.rx = some r ∧ r.rem.head? = some b ∧
        ((s.push1 = .accept ∧ t = (s.stored b).finishBurst { r with rem := r.rem.tail, acc := r.acc + 1 }) ∨
          (s.push1 = .dropped ∧ t = s.dropByte r) ∨ (s.push1 = .rejectClosed ∧ t = s.rejectBurst r)) := by
  unfold rxStep at h
  cases hx : s.rx with
  | none =>
    rw [hx] at h
    simp only [State.hold_eq, Host.Outcome.next.injEq] at h
    exact .inl ⟨h.symm, by simp [State.rxReady, hx]⟩
  | some r =>
    rw [hx] at h
    cases hb : r.rem with
    | nil =>
      simp only [hb, State.hold_eq, Host.Outcome.next.injEq] at h
      exact .inl ⟨h.symm, by simp [State.rxReady, hx, hb]⟩
    | cons b bs =>
      simp only [hb] at h
      cases hp : s.push1 with
      | hold =>
        simp only [hp, State.hold_eq, Host.Outcome.next.injEq] at h
        exact .inl ⟨h.symm, by simp [State.rxReady, hx, hp]⟩
      | accept =>
        simp only [hp] at h
        exact .inr ⟨r, b, rfl, by simp [hb], .inl ⟨rfl, acceptByte_cases h⟩⟩
      | dropped =>
        simp only [hp, Host.Outcome.next.injEq] at h
        exact .inr ⟨r, b, rfl, by simp [hb], .inr (.inl ⟨rfl, h.symm⟩)⟩
      | rejectClosed =>
        simp only [hp, Host.Outcome.next.injEq] at h
        exact .inr ⟨r, b, rfl, by simp [hb], .inr (.inr ⟨rfl, h.symm⟩)⟩

/-- Everything the held POP of a stand-alone consumer can do. -/
theorem ownStep_cases {s t : State} (h : ownStep s = .next t) :
    t = s ∨ ∃ a, s.ownPop = some a ∧
      ((∃ b u, s.fifoPop = .byte b u ∧ t = { u with ownPop := none }.complete a (zextByte b)) ∨
        (s.fifoPop = .closed ∧ t = { s with ownPop := none }.raise a .channelClosed)) := by
  unfold ownStep at h
  cases ho : s.ownPop with
  | none =>
    rw [ho] at h
    exact .inl (by simpa using h.symm)
  | some a =>
    rw [ho] at h
    cases hp : s.fifoPop with
    | byte b u =>
      rw [hp] at h
      simp only [Host.Outcome.next.injEq] at h
      exact .inr ⟨a, rfl, .inl ⟨b, u, rfl, h.symm⟩⟩
    | closed =>
      rw [hp] at h
      simp only [Host.Outcome.next.injEq] at h
      exact .inr ⟨a, rfl, .inr ⟨rfl, h.symm⟩⟩
    | empty =>
      rw [hp] at h
      exact .inl (by simpa using h.symm)
    | fault f =>
      rw [hp] at h
      cases h

/-- Everything a pop step of a typed read can do. -/
theorem readStep_cases {s t : State} (h : readStep s = .next t) :
    t = s ∨ ∃ r, s.rd = some r ∧
      ((s.fifoPop = .closed ∧ t = { s with rd := none }.raise r.agent .channelClosed) ∨
        ∃ b u, s.fifoPop = .byte b u ∧
          ((∃ v, readValue r.kind r.hi b = some v ∧ t = { u with rd := none }.complete r.agent v) ∨
            (readValue r.kind r.hi b = none ∧ t = { u with rd := some { r with hi := some b } }))) := by
  unfold readStep at h
  cases hr : s.rd with
  | none =>
    rw [hr] at h
    exact .inl (by simpa using h.symm)
  | some r =>
    rw [hr] at h
    cases hp : s.fifoPop with
    | byte b u =>
      simp only [hp] at h
      cases hv : readValue r.kind r.hi b with
      | some v =>
        rw [hv] at h
        simp only [Host.Outcome.next.injEq] at h
        exact .inr ⟨r, rfl, .inr ⟨b, u, rfl, .inl ⟨v, hv, h.symm⟩⟩⟩
      | none =>
        rw [hv] at h
        simp only [Host.Outcome.next.injEq] at h
        exact .inr ⟨r, rfl, .inr ⟨b, u, rfl, .inr ⟨hv, h.symm⟩⟩⟩
    | closed =>
      rw [hp] at h
      simp only [Host.Outcome.next.injEq] at h
      exact .inr ⟨r, rfl, .inl ⟨rfl, h.symm⟩⟩
    | empty =>
      rw [hp] at h
      exact .inl (by simpa using h.symm)
    | fault f =>
      rw [hp] at h
      cases h

theorem connDone_cases {s t : State} (h : connDone s = .next t) :
    t = s ∨ ∃ a r, s.connCaller = some a ∧ s.connResult = some r ∧
      t = { s with connCaller := none, connResult := none }.respond a r := by
  unfold connDone at h
  cases ha : s.connCaller with
  | none =>
    rw [ha] at h
    exact .inl (by simpa using h.symm)
  | some a =>
    cases hr : s.connResult with
    | none =>
      rw [ha, hr] at h
      exact .inl (by simpa using h.symm)
    | some r =>
      rw [ha, hr] at h
      simp only [Host.Outcome.next.injEq] at h
      exact .inr ⟨a, r, rfl, rfl, h.symm⟩

/-- Everything the mode read can do. -/
theorem readModeStep_cases {s t : State} (h : s.readModeStep = .next t) :
    t = s ∨ ∃ b u, s.fifoPop = .byte b u ∧ t = u.modeCompare b := by
  unfold State.readModeStep at h
  cases hp : s.fifoPop with
  | byte b u =>
    rw [hp] at h
    simp only [Host.Outcome.next.injEq] at h
    exact .inr ⟨b, u, rfl, h.symm⟩
  | closed =>
    rw [hp] at h
    exact .inl (by simpa using h.symm)
  | empty =>
    rw [hp] at h
    exact .inl (by simpa using h.symm)
  | fault f =>
    rw [hp] at h
    cases h

/-- Everything an enabled phase step of SEQ can do. -/
theorem seqStep_cases {answer : Bool} {d : WriteDraw} {s t : State} (he : s.seqReady = true)
    (h : seqStep answer d s = .next t) :
    (s.phase = .openPort ∧ s.link = .opening ∧ t = s.openStep answer) ∨
      (s.phase = .sendStart ∧ t = s.sendStartStep d) ∨ (s.phase = .sendQuery ∧ t = s.sendQueryStep d) ∨
      (s.phase = .readMode ∧ s.cancelReq = false ∧ s.readModeStep = .next t) := by
  unfold State.seqReady at he
  unfold seqStep at h
  cases hp : s.phase <;> rw [hp] at h he <;> simp_all

theorem tmrStep_cases {s t : State} (he : s.tmrReady = true) (h : tmrStep s = .next t) :
    s.cancelReq = false ∧
      ((s.phase = .delay ∧ s.tmr = some .poll ∧ t = { s with tmr := none, phase := .readMode }) ∨
        (s.phase = .cooldown ∧ s.tmr = some .cooldown ∧
          t = { s with tmr := none, attempt := s.attempt + 1#2, phase := .openPort })) := by
  simp only [State.tmrReady, Bool.and_eq_true, Bool.or_eq_true, beq_iff_eq, Bool.not_eq_true'] at he
  obtain ⟨hc, ⟨hp, ht⟩ | ⟨hp, ht⟩⟩ := he
  · refine ⟨hc, .inl ⟨hp, ht, ?_⟩⟩
    simpa [tmrStep, ht] using h.symm
  · refine ⟨hc, .inr ⟨hp, ht, ?_⟩⟩
    simpa [tmrStep, ht] using h.symm

theorem attemptFail_eq (s : State) :
    s.attemptFail =
      if s.attempt.toNat < s.cfg.maxAttempts.toNat then
        { s with
          tev := s.tev ++ [TEvent.close]
          handle := false
          link := .opening
          phase := .cooldown
          tmr := some .cooldown }
      else
        { s with tev := s.tev ++ [TEvent.close], handle := false }.enterClosed
          (some (errorRsp (.connectionFailed .attemptsExhausted))) := rfl

theorem openStep_true (s : State) :
    s.openStep true =
      { s with
        tev := s.tev ++ [TEvent.opened true]
        handle := true
        polls := 0
        link := .handshaking
        phase := .sendStart } := rfl

theorem openStep_false (s : State) :
    s.openStep false =
      { s with tev := s.tev ++ [TEvent.opened false] }.enterClosed (some (errorRsp .transportOpen)) := rfl

/-! ### The FIFO's view of a step -/

/-- The fields the FIFO's content and history are made of. -/
def State.fifoView (s : State) : Params × Memory × Half × Half × Half × List Byte × List Byte :=
  (s.cfg, s.mem, s.head, s.tail, s.count, s.accepted, s.popped)

/-- The FIFO invariant depends on the FIFO's view alone. -/
theorem FifoInv.of_fifoView {s t : State} (h : FifoInv s) (e : t.fifoView = s.fifoView) : FifoInv t := by
  simp only [State.fifoView, Prod.mk.injEq] at e
  obtain ⟨e1, e2, e3, e4, e5, -, -⟩ := e
  have hq : t.queue = s.queue := by simp only [queue_eq_ringContent, e1, e2, e3, e5]
  constructor
  · rw [e1]
    exact h.depth_pos
  · rw [e1, e5]
    exact h.count_le
  · rw [e1, e3]
    exact h.head_lt
  · rw [e1, e3, e4, e5]
    exact h.tail_eq
  · rw [e2]
    exact h.mem_wf
  · rw [e1, e2]
    exact h.mem_bound
  · rw [hq, e5]
    exact h.queue_length

/-- So do the content and the history sequences of 20_memory.md R61. -/
theorem histories_of_fifoView {s t : State} (e : t.fifoView = s.fifoView) :
    t.queue = s.queue ∧ t.accepted = s.accepted ∧ t.popped = s.popped := by
  simp only [State.fifoView, Prod.mk.injEq] at e
  obtain ⟨e1, e2, e3, -, e5, e6, e7⟩ := e
  exact ⟨by simp only [queue_eq_ringContent, e1, e2, e3, e5], e6, e7⟩

theorem finishBurst_fifoView (s : State) (r : RxRec) : (s.finishBurst r).fifoView = s.fifoView := by
  simp [State.fifoView]

theorem enterClosed_fifoView (s : State) (r : Option Rsp) : (s.enterClosed r).fifoView = s.fifoView := by
  simp [State.fifoView]

theorem attemptFail_fifoView (s : State) : s.attemptFail.fifoView = s.fifoView := by
  rw [attemptFail_eq]
  split
  · rfl
  · rw [enterClosed_fifoView]
    rfl

theorem txWrite_fifoView (s : State) (bs : List Byte) (d : WriteDraw) :
    (s.txWrite bs d).fifoView = s.fifoView := rfl

theorem startBurst_fifoView (s : State) (bs : List Byte) : (s.startBurst bs).fifoView = s.fifoView := by
  cases bs <;> rfl

theorem startRead_fifoView (s : State) (k : ReadKind) : (s.startRead k).fifoView = s.fifoView := by
  rcases startRead_cases s k with ⟨h, -⟩ | ⟨h, -, -⟩ <;> rw [h] <;> rfl

theorem typedWrite_fifoView (s : State) (k : OperandCheck) : (s.typedWrite k).fifoView = s.fifoView := by
  rcases typedWrite_cases s k with h | ⟨r, h⟩ | ⟨-, bs, d, r, -, h⟩ <;> rw [h] <;> rfl

/-- A command leaves the FIFO alone, but for a POP that takes the oldest byte. -/
theorem exec_fifoView {i : Instr} {s t : State} (h : exec i s = .next t) :
    t.fifoView = s.fifoView ∨
      (i = .pop ∧ ∃ b u, s.fifoPop = .byte b u ∧ t = u.complete s.cur.agent (zextByte b)) := by
  cases i with
  | push d =>
    rcases execPush_cases h with ⟨-, rfl⟩ | ⟨-, rfl⟩ <;> exact .inl rfl
  | pushm n =>
    rcases execPushm_cases h with ⟨-, rfl⟩ | ⟨-, -, rfl⟩ | ⟨-, -, rfl⟩
    · exact .inl rfl
    · exact .inl rfl
    · exact .inl (startBurst_fifoView _ _)
  | pop =>
    rcases execPop_cases h with ⟨b, u, hp, rfl⟩ | ⟨-, rfl⟩ | ⟨-, rfl⟩
    · exact .inr ⟨rfl, b, u, hp, rfl⟩
    · exact .inl rfl
    · exact .inl rfl
  | fclose =>
    simp only [exec, execFclose, Host.Outcome.next.injEq] at h
    subst h
    exact .inl rfl
  | connect =>
    simp only [exec, execConnect] at h
    split at h <;> (simp only [Host.Outcome.next.injEq] at h; subst h; exact .inl rfl)
  | close =>
    simp only [exec, execClose] at h
    split at h <;> (simp only [Host.Outcome.next.injEq] at h; subst h)
    · exact .inl rfl
    all_goals exact .inl (enterClosed_fifoView s _)
  | cancel =>
    simp only [exec, execCancel] at h
    split at h <;> (simp only [Host.Outcome.next.injEq] at h; subst h; exact .inl rfl)
  | rds8 =>
    simp only [exec, execRds8, Host.Outcome.next.injEq] at h
    exact .inl (h ▸ startRead_fifoView s _)
  | rdu8 =>
    simp only [exec, execRdu8, Host.Outcome.next.injEq] at h
    exact .inl (h ▸ startRead_fifoView s _)
  | rds16 =>
    simp only [exec, execRds16, Host.Outcome.next.injEq] at h
    exact .inl (h ▸ startRead_fifoView s _)
  | rdu16 =>
    simp only [exec, execRdu16, Host.Outcome.next.injEq] at h
    exact .inl (h ▸ startRead_fifoView s _)
  | wrb =>
    simp only [exec, execWrb, Host.Outcome.next.injEq] at h
    exact .inl (h ▸ typedWrite_fifoView s _)
  | wrbs len =>
    simp only [exec, execWrbs, Host.Outcome.next.injEq] at h
    exact .inl (h ▸ typedWrite_fifoView s _)
  | wrs16 =>
    simp only [exec, execWrs16, Host.Outcome.next.injEq] at h
    exact .inl (h ▸ typedWrite_fifoView s _)
  | wru16 =>
    simp only [exec, execWru16, Host.Outcome.next.injEq] at h
    exact .inl (h ▸ typedWrite_fifoView s _)

/-- A step leaves the FIFO alone, stores one byte of the burst in flight, or takes the oldest byte. -/
theorem step_fifoView {s t : State} (h : step s = .next t) :
    t.fifoView = s.fifoView ∨
      (s.nextMove = .rxStep ∧ s.push1 = .accept ∧
        ∃ r b, s.rx = some r ∧ r.rem.head? = some b ∧ t.fifoView = (s.stored b).fifoView) ∨
      ∃ b u, s.fifoPop = .byte b u ∧ t.fifoView = u.fifoView := by
  have pop_advance : ∀ {b : Byte} {u : State}, s.advance.fifoPop = .byte b u →
      ∃ u', s.fifoPop = .byte b u' ∧ u.fifoView = u'.fifoView := by
    intro b u hp
    obtain ⟨hc, hl, hr, rfl⟩ := fifoPop_byte hp
    refine ⟨s.taken b, ?_, rfl⟩
    simp only [State.advance_count, State.advance_head, State.advance_cfg, State.advance_mem] at hc hl hr
    simp [State.fifoPop, hc, State.memRead, hl, hr, State.taken]
  cases step_cases h with
  | hold he ht => exact .inl (ht ▸ rfl)
  | command c i hm he hd hx =>
    rcases exec_fifoView hx with h | ⟨-, b, u, hp, rfl⟩
    · exact .inl h
    · obtain ⟨hc, hl, hr, rfl⟩ := fifoPop_byte hp
      simp only [State.present_count, State.present_head, State.present_cfg, State.present_mem,
        State.advance_count, State.advance_head, State.advance_cfg, State.advance_mem] at hc hl hr
      refine .inr (.inr ⟨b, s.taken b, ?_, rfl⟩)
      simp [State.fifoPop, hc, State.memRead, hl, hr, State.taken]
  | illegal c why hm he hd ht => exact .inl (ht ▸ rfl)
  | rx hm he hx =>
    rcases rxStep_cases hx with ⟨rfl, -⟩ | ⟨r, b, hr, hb, ⟨hp, rfl⟩ | ⟨-, rfl⟩ | ⟨-, rfl⟩⟩
    · exact .inl rfl
    · exact .inr (.inl ⟨hm, hp, r, b, hr, hb, finishBurst_fifoView _ _⟩)
    · exact .inl (finishBurst_fifoView _ _)
    · exact .inl (finishBurst_fifoView _ _)
  | own hm ho he hx =>
    rcases ownStep_cases hx with rfl | ⟨a, -, ⟨b, u, hp, rfl⟩ | ⟨-, rfl⟩⟩
    · exact .inl rfl
    · obtain ⟨u', hp', hv⟩ := pop_advance hp
      exact .inr (.inr ⟨b, u', hp', hv⟩)
    · exact .inl rfl
  | read hm hr he hx =>
    rcases readStep_cases hx with rfl | ⟨r, -, ⟨-, rfl⟩ | ⟨b, u, hp, ⟨v, -, rfl⟩ | ⟨-, rfl⟩⟩⟩
    · exact .inl rfl
    · exact .inl rfl
    · obtain ⟨u', hp', hv⟩ := pop_advance hp
      exact .inr (.inr ⟨b, u', hp', hv⟩)
    · obtain ⟨u', hp', hv⟩ := pop_advance hp
      exact .inr (.inr ⟨b, u', hp', hv⟩)
  | conn hm hx =>
    rcases connDone_cases hx with rfl | ⟨a, r, -, -, rfl⟩ <;> exact .inl rfl
  | seq answer d hm he hx =>
    rcases seqStep_cases he hx with ⟨-, -, rfl⟩ | ⟨-, rfl⟩ | ⟨-, rfl⟩ | ⟨-, -, hx⟩
    · left
      cases answer
      · rw [openStep_false, enterClosed_fifoView]
        rfl
      · rfl
    · left
      unfold State.sendStartStep
      cases d
      · rfl
      · rw [attemptFail_fifoView]
        rfl
    · left
      unfold State.sendQueryStep
      cases d
      · rfl
      · rw [attemptFail_fifoView]
        rfl
    · rcases readModeStep_cases hx with rfl | ⟨b, u, hp, rfl⟩
      · exact .inl rfl
      · obtain ⟨u', hp', hv⟩ := pop_advance hp
        refine .inr (.inr ⟨b, u', hp', ?_⟩)
        rw [← hv]
        unfold State.modeCompare
        split <;> rfl
  | cancel hm he ht =>
    rw [ht]
    exact .inl (enterClosed_fifoView s.advance _)
  | tmr hm he hx =>
    rcases tmrStep_cases he hx with ⟨-, ⟨-, -, rfl⟩ | ⟨-, -, rfl⟩⟩ <;> exact .inl rfl

end Sys2Proof.Machine
end

