-- ==== Sys2Proof/Machine/AsmText.lean ====
section
/-! DEFINITION. The text of assembler statements (30_encoding.md rules R94, R95): from characters to a statement,
rejecting what R94 gives no form. -/

namespace Sys2Proof.Machine

/-- A lexical token of a statement: a name or literal, or a punctuation mark. -/
inductive Tok where
  | word (cs : List Char)
  | mark (c : Char)
  deriving DecidableEq, Repr

/-- The punctuation of R94 and of the draws `fail(k)`. -/
def isMark (c : Char) : Bool := c == ':' || c == ',' || c == '[' || c == ']' || c == '(' || c == ')'

/-- The word gathered so far, its last character first, as a token before `ts`. -/
def flushWord (acc : List Char) (ts : List Tok) : List Tok := if acc = [] then ts else .word acc.reverse :: ts

/-- The tokens of a line; a space ends a word. -/
def tokens (acc : List Char) : List Char → List Tok
  | [] => flushWord acc []
  | c :: cs =>
    if isMark c then flushWord acc (.mark c :: tokens [] cs)
    else if c == ' ' then flushWord acc (tokens [] cs)
    else tokens (c :: acc) cs

/-- The value of one hexadecimal digit. -/
def hexDigit (c : Char) : Option Nat :=
  if '0' ≤ c ∧ c ≤ '9' then some (c.toNat - '0'.toNat)
  else if 'a' ≤ c ∧ c ≤ 'f' then some (c.toNat - 'a'.toNat + 10)
  else if 'A' ≤ c ∧ c ≤ 'F' then some (c.toNat - 'A'.toNat + 10)
  else none

/-- The digits `cs` in `base`, on top of `acc`; none at a character that is no digit of the base. -/
def digits (base acc : Nat) : List Char → Option Nat
  | [] => some acc
  | c :: cs =>
    match hexDigit c with
    | some d => if d < base then digits base (acc * base + d) cs else none
    | none => none

/-- An unsigned literal: decimal, or hexadecimal with `0x` (R94). -/
def natLiteral : List Char → Option Nat
  | [] => none
  | '0' :: 'x' :: c :: cs => digits 16 0 (c :: cs)
  | c :: cs => digits 10 0 (c :: cs)

/-- A literal fits in 32 bits as a signed or as an unsigned number (R94; DESIGN CHOICE for reading both, log 24). -/
def fitsWord (v : Int) : Bool := decide (-2 ^ 31 ≤ v ∧ v < 2 ^ 32)

/-- A signed literal that fits in 32 bits (R94). R94 says "a signed decimal or 0x literal", which leaves open whether a
0x literal may carry a minus sign: it may, so `-0x10` is -16 (DESIGN CHOICE, log 24). -/
def intLiteral : List Char → Option Int
  | '-' :: cs => (natLiteral cs).bind fun n => if fitsWord (-n) then some (-n) else none
  | cs => (natLiteral cs).bind fun n => if fitsWord n then some n else none

/-- A byte literal (R94). -/
def byteLiteral (cs : List Char) : Option Byte :=
  (natLiteral cs).bind fun n => if n < 256 then some (BitVec.ofNat 8 n) else none

/-- The words of a list after its opening bracket: items between commas, up to the closing bracket, which ends the
statement. -/
def listItems : List Tok → Option (List (List Char))
  | [.word w, .mark ']'] => some [w]
  | .word w :: .mark ',' :: ts => (listItems ts).map (w :: ·)
  | _ => none

/-- A bracketed list of words; it may be empty (R94: `PUSHM [..]` with N = 0). -/
def listWords : List Tok → Option (List (List Char))
  | [.mark '[', .mark ']'] => some []
  | .mark '[' :: ts => listItems ts
  | _ => none

/-- Every word read by `f`, or none. -/
def readAll {α : Type} (f : List Char → Option α) : List (List Char) → Option (List α)
  | [] => some []
  | w :: ws =>
    match f w, readAll f ws with
    | some v, some vs => some (v :: vs)
    | _, _ => none

/-- A list of byte literals. -/
def byteList (ts : List Tok) : Option (List Byte) := (listWords ts).bind (readAll byteLiteral)

/-- A list of signed literals. -/
def intList (ts : List Tok) : Option (List Int) := (listWords ts).bind (readAll intLiteral)

/-- The statements without operands: format N, and the pseudo-instructions RDMODE and QUERYMODE (R94, R95). -/
def plainOp (m : List Char) : Option AsmOp :=
  if m = "POP".toList then some .pop
  else if m = "FCLOSE".toList then some .fclose
  else if m = "CONNECT".toList then some .connect
  else if m = "CLOSE".toList then some .close
  else if m = "CANCEL".toList then some .cancel
  else if m = "RDS8".toList then some .rds8
  else if m = "RDU8".toList then some .rdu8
  else if m = "RDS16".toList then some .rds16
  else if m = "RDU16".toList then some .rdu16
  else if m = "RDMODE".toList then some .rdmode
  else if m = "QUERYMODE".toList then some .querymode
  else none

/-- The statements with one literal: formats B and A (R94). -/
def unaryOp (m v : List Char) : Option AsmOp :=
  if m = "PUSH".toList then (byteLiteral v).map .push
  else if m = "WRB".toList then (intLiteral v).map .wrb
  else if m = "WRS16".toList then (intLiteral v).map .wrs16
  else if m = "WRU16".toList then (intLiteral v).map .wru16
  else none

/-- `PUSHM [..]`: N is the list length and fits its 12-bit field (R82, R94). -/
def pushmOp (ts : List Tok) : Option AsmOp :=
  (byteList ts).bind fun bs => if bs.length < 4096 then some (.pushm bs) else none

/-- `WRBS len, start, [..]`: LEN fits its 5-bit field (R82, R94). -/
def wrbsOp (len start : List Char) (ts : List Tok) : Option AsmOp :=
  match natLiteral len, intLiteral start, intList ts with
  | some n, some a, some vs => if n < 32 then some (.wrbs n a vs) else none
  | _, _, _ => none

/-- `WRCMD2 a, b` (R95). -/
def wrcmd2Op (a b : List Char) : Option AsmOp :=
  match intLiteral a, intLiteral b with
  | some v, some w => some (.wrcmd2 v w)
  | _, _ => none

/-- `MNEMONIC operands` (R94, R95). -/
def parseOp : List Tok → Option AsmOp
  | [.word m] => plainOp m
  | [.word m, .word v] => unaryOp m v
  | [.word m, .word a, .mark ',', .word b] => if m = "WRCMD2".toList then wrcmd2Op a b else none
  | .word m :: .word len :: .mark ',' :: .word start :: .mark ',' :: ts =>
    if m = "WRBS".toList then wrbsOp len start ts else none
  | .word m :: .mark '[' :: ts => if m = "PUSHM".toList then pushmOp (.mark '[' :: ts) else none
  | _ => none

/-- The agent a prefix names: RX, OWN, APP<k> or HOST (R94). -/
def parseAgent : List Char → Option Issuer
  | ['R', 'X'] => some .rx
  | ['O', 'W', 'N'] => some .own
  | ['H', 'O', 'S', 'T'] => some .host
  | 'A' :: 'P' :: 'P' :: d :: ds => (digits 10 0 (d :: ds)).map .app
  | _ => none

/-- A draw that `answer` fixes: ok, fail (of an open), or fail(k) (of a write) (95_test_vectors.md). -/
inductive Answer where
  | ok
  | fail
  | failAt (k : Nat)
  deriving DecidableEq, Repr

/-- HOST's answer to an open, where the draw is one of an open. -/
def Answer.opened : Answer → Option Bool
  | .ok => some true
  | .fail => some false
  | .failAt _ => none

/-- HOST's answer to a transport write, where the draw is one of a write. -/
def Answer.written : Answer → Option WriteDraw
  | .ok => some .ok
  | .fail => none
  | .failAt k => some (.fail k)

/-- The draw after `answer`. -/
def parseAnswer : List Tok → Option Answer
  | [.word w] => if w = "ok".toList then some .ok else if w = "fail".toList then some .fail else none
  | [.word w, .mark '(', .word k, .mark ')'] => if w = "fail".toList then (natLiteral k).map .failAt else none
  | _ => none

/-- One line of an assembler program: a command with the agent its prefix names, or a directive (R94). -/
inductive AsmLine where
  | command (agent : Option Issuer) (op : AsmOp)
  | deliver (bs : List Byte)
  | answer (q : Answer)
  deriving DecidableEq, Repr

/-- What follows the prefix `HOST:`: a directive or a command (R94). -/
def parseHostLine : List Tok → Option AsmLine
  | .word w :: ts =>
    if w = "deliver".toList then (byteList ts).map .deliver
    else if w = "answer".toList then (parseAnswer ts).map .answer
    else (parseOp (.word w :: ts)).map (.command (some .host))
  | _ => none

/-- `[agent:] MNEMONIC operands`, or a directive (R94). -/
def parseTokens : List Tok → Option AsmLine
  | .word a :: .mark ':' :: ts =>
    match parseAgent a with
    | some .host => parseHostLine ts
    | some k => (parseOp ts).map (.command (some k))
    | none => none
  | ts => (parseOp ts).map (.command none)

/-- One line of assembler text. -/
def parseLine (text : String) : Option AsmLine := parseTokens (tokens [] text.toList)

/-- The commands a line presents; `draw` answers a transport write the command makes. A draw of its own is no
command (R94). -/
def AsmLine.cmds (p : Params) (draw : WriteDraw) : AsmLine → List Cmd
  | .command agent op => [assemble p agent op draw]
  | .deliver bs => Sys2Proof.Machine.deliver p bs
  | .answer _ => []

end Sys2Proof.Machine
end

