-- ==== Sys2Proof/Tests/Slice0.lean ====
section
/-! SUPPORT. Tests of the model on fixed values. Expected results come from spec/: the vectors of
95_test_vectors.md (named L1.x, L2.1, F, K, T, W as there), the examples of 30_encoding.md R97 and the corner cases
of the command rules. Theorems named `test_witness_…` show a state and operands that meet the hypotheses of one
statement together. -/

namespace Sys2Proof.Machine

/-! ### Small states -/

/-- One view of the state a result goes on to; none for a stop. -/
def after {α : Type} (r : Result) (f : State → α) : Option α :=
  match r with
  | .next s => some (f s)
  | .fault _ => none
  | .refused _ => none

/-- Storage with the given bytes from index `k` on. -/
def cells : Nat → List Byte → Memory
  | _, [] => []
  | k, b :: bs => (k, b) :: cells (k + 1) bs

/-- `s` with the content `bs`, stored from index 0 (C = 4). -/
def queued (s : State) (bs : List Byte) : State :=
  { s with
    mem := cells 0 bs
    tail := BitVec.ofNat 16 (bs.length % 4)
    count := BitVec.ofNat 16 bs.length
    accepted := bs
    instream := bs }

/-- `s` with the burst `bs` in flight. -/
def bursting (s : State) (bs : List Byte) : State :=
  { s with rx := some { rem := bs, acc := 0, st := .ok }, instream := s.instream ++ bs }

/-- `s` with a typed read of APP_0 in flight. -/
def reading (s : State) (k : ReadKind) (hi : Option Byte) : State :=
  { s with rd := some { agent := .app 0, kind := k, hi := hi } }

/-- The command of APP_0 with the given word, argument and VALUES. -/
def appCmd (w : Half) (arg : Word) (values : List Word) (d : WriteDraw) : Cmd :=
  { agent := .app 0, cw := w, arg := arg, burst := [], values := values, draw := d }

/-- `s` with a write of APP_0 presented. -/
def writing (s : State) (arg : Word) (values : List Word) (d : WriteDraw) : State :=
  { s with cur := appCmd 0#16 arg values d }

/-- `s` with the burst of a PUSHM of RX presented. -/
def pushing (s : State) (bs : List Byte) : State :=
  { s with cur := { agent := .rx, cw := 0x2000#16, arg := 0#32, burst := bs, values := [], draw := .ok } }

/-- READY, as K2 ends on the first attempt. -/
def ready : State := { State.reset with link := .ready, handle := true, attempt := 1#2, polls := 1 }

/-- CLOSED after a first attempt. -/
def closed : State := { State.reset with link := .closed, fclosed := true, attempt := 1#2 }

/-- OPENING in phase OPEN, with APP_0 held. -/
def opening : State :=
  { State.reset with link := .opening, phase := .openPort, attempt := 1#2, connCaller := some (.app 0) }

/-- COOLDOWN after the first attempt. -/
def cooling : State := { opening with phase := .cooldown, tmr := some .cooldown }

/-- HANDSHAKING in the given phase and attempt, with APP_0 held. -/
def shaking (p : Phase) (n : BitVec 2) : State :=
  { State.reset with
    link := .handshaking
    phase := p
    handle := true
    attempt := n
    connCaller := some (.app 0)
    tmr := if p = .delay then some .poll else none }

/-- The stand-alone FIFO. -/
def alone : State := State.resetWith { Config.referenceParams with standalone := true } false

/-- The whole block under DROP. -/
def dropping : State := State.resetWith { Config.referenceParams with policy := .drop } false

/-- A content of one byte at the last index of the ring (C = 4). -/
def wrapping : State :=
  { ready with
    mem := [(3, 0x77#8)]
    head := 3#16
    count := 1#16
    accepted := [0x77#8]
    instream := [0x77#8] }

/-- The FIFO invariant from its parts. -/
theorem fifoInv_of {s : State}
    (h : 0 < s.cfg.depth.toNat ∧ s.count.toNat ≤ s.cfg.depth.toNat ∧ s.head.toNat < s.cfg.depth.toNat ∧
      s.tail.toNat = (s.head.toNat + s.count.toNat) % s.cfg.depth.toNat ∧ s.mem.wf ∧
      (∀ c ∈ s.mem, c.1 < s.cfg.depth.toNat) ∧ s.queue.length = s.count.toNat) : FifoInv s :=
  ⟨h.1, h.2.1, h.2.2.1, h.2.2.2.1, h.2.2.2.2.1, h.2.2.2.2.2.1, h.2.2.2.2.2.2⟩

/-- The link invariant of a state with no posted result, from its parts. -/
theorem linkInv_of {s : State} (hr : s.connResult = none)
    (h : (s.link, s.phase) ∈ legalPairs ∧ (s.tmr = some .poll ↔ s.phase = .delay) ∧
      (s.tmr = some .cooldown ↔ s.phase = .cooldown) ∧
      (s.handle = true ↔ s.link = .handshaking ∨ s.link = .ready) ∧ (s.cancelReq = true → s.connecting = true) ∧
      0 < s.cfg.maxAttempts.toNat ∧ s.attempt.toNat ≤ s.cfg.maxAttempts.toNat ∧ (s.connecting = true ∨ s.link = .ready → 0 < s.attempt.toNat) ∧
      (s.phase = .cooldown → s.attempt.toNat < s.cfg.maxAttempts.toNat) ∧
      (s.connecting = true → s.connCaller.isSome = true) ∧
      (s.link = .unopened → s.connCaller = none ∧ s.tev = [] ∧ s.attempt = 0#2) ∧
      (s.rd.isSome = true → s.typedAllowed = true)) : LinkInv s where
  pair := h.1
  tmr_poll := h.2.1
  tmr_cooldown := h.2.2.1
  handle := h.2.2.2.1
  cancel := h.2.2.2.2.1
  attempts_pos := h.2.2.2.2.2.1
  attempt_le := h.2.2.2.2.2.2.1
  attempt_pos := h.2.2.2.2.2.2.2.1
  attempt_cooldown := h.2.2.2.2.2.2.2.2.1
  caller := fun hc => ⟨h.2.2.2.2.2.2.2.2.2.1 hc, hr⟩
  result := fun hs => by simp [hr] at hs
  result_ready := fun _ r hs => by simp [hr] at hs
  result_closed := fun _ r hs => by simp [hr] at hs
  unopened := h.2.2.2.2.2.2.2.2.2.2.1
  read := h.2.2.2.2.2.2.2.2.2.2.2

/-- The roles of the whole block from their parts, with APP_0 or nobody held. -/
theorem roleInv_of {s : State}
    (h : s.cfg.standalone = false ∧ (s.fclosed = true ↔ s.link = .closed) ∧ s.ownPop = none ∧ 0 < s.cfg.nApp ∧
      (s.connCaller = none ∨ s.connCaller = some (.app 0)) ∧
      (s.rd = none ∨ s.rd.map ReadRec.agent = some (.app 0))) : RoleInv s where
  closed_iff := fun _ => h.2.1
  own_none := fun _ => h.2.2.1
  standalone := fun hs => by simp [h.1] at hs
  caller_app := fun a ha => by
    rcases h.2.2.2.2.1 with e | e
    · simp [e] at ha
    · exact ⟨0, h.2.2.2.1, by simpa [e] using ha.symm⟩
  reader_app := fun r hr => by
    rcases h.2.2.2.2.2 with e | e
    · simp [e] at hr
    · exact ⟨0, h.2.2.2.1, by simpa [hr] using e⟩

/-! ### Assembler text (30_encoding.md R94, R95; lines of 95_test_vectors.md) -/

theorem test_text_push :
    (parseLine "RX: PUSH 0x41").map (·.cmds Config.referenceParams .ok) = some [assemble Config.referenceParams (some .rx) (.push 0x41#8) .ok] := by decide

theorem test_text_pushm : parseLine "RX: PUSHM [0x0A, 0x0B]" = some (.command (some .rx) (.pushm [10#8, 11#8])) := by
  decide

theorem test_text_wrbs : parseLine "WRBS 2, -1, [256, -1]" = some (.command none (.wrbs 2 (-1) [256, -1])) := by decide

theorem test_text_pseudo :
    (parseLine "QUERYMODE").map (·.cmds Config.referenceParams .ok) = (parseLine "APP0: WRBS 2, 0, [0x8E, 0x23]").map (·.cmds Config.referenceParams .ok) := by
  decide

theorem test_text_host :
    parseLine "HOST: answer fail(1)" = some (.answer (.failAt 1)) ∧
      parseLine "HOST: deliver [0x01]" = some (.deliver [1#8]) ∧
      parseLine "HOST: CANCEL" = some (.command (some .host) .cancel) ∧
        parseLine "WRS16 -0x10" = some (.command none (.wrs16 (-16))) := by decide

theorem test_text_refused :
    parseLine "PUSH 256" = none ∧ parseLine "WRB" = none ∧ parseLine "WRB 0x100000000" = none ∧
      parseLine "POP 1" = none ∧ parseLine "WRBS 32, 0, []" = none := by decide

/-! ### WellFormed: each check refuses an ill-formed term -/

theorem test_wf_pushm_too_long : (Instr.pushm 4096).wf = false := by decide

theorem test_wf_wrbs_too_long : (Instr.wrbs 32).wf = false := by decide

theorem test_wf_rx_may_not_pop : Instr.issuerOk .pop .rx = false := by decide

theorem test_wf_own_may_not_push : Instr.issuerOk (.push 0#8) .own = false := by decide

theorem test_wf_app_may_not_close_fifo : Instr.issuerOk .fclose (.app 0) = false := by decide

theorem test_wf_host_may_not_connect : Instr.issuerOk .connect .host = false := by decide

theorem test_wf_burst_of_two_for_three :
    Instr.sidebandOk (.pushm 3) (pushing State.reset [1#8, 2#8]).cur = false := by decide

theorem test_wf_params_depth_zero : Params.wf { Config.referenceParams with depth := 0#16 } = false := by decide

theorem test_wf_params_no_app : Params.wf { Config.referenceParams with nApp := 0 } = false := by decide

/-! ### Decoding: words written out from 30_encoding.md R81, R84, R97 and vectors L2.1 -/

theorem test_decode_push : decode .rx 0b0001000001000001#16 = .command (.push 0x41#8) := by decide

theorem test_decode_push_ff : decode .rx 0x10FF#16 = .command (.push 0xFF#8) := by decide

theorem test_decode_pushm : decode .rx 0b0010000000000011#16 = .command (.pushm 3) := by decide

theorem test_decode_pushm_max : decode .rx 0x2FFF#16 = .command (.pushm 4095) := by decide

theorem test_decode_pop : decode .own 0b0011000000000000#16 = .command .pop := by decide

theorem test_decode_fclose : decode .own 0b0100000000000000#16 = .command .fclose := by decide

theorem test_decode_connect : decode .app 0b0101000000000000#16 = .command .connect := by decide

theorem test_decode_close : decode .app 0b0110000000000000#16 = .command .close := by decide

theorem test_decode_cancel : decode .app 0b0111000000000000#16 = .command .cancel := by decide

theorem test_decode_rds8 : decode .app 0b1000000000000000#16 = .command .rds8 := by decide

theorem test_decode_rdu8 : decode .app 0b1001000000000000#16 = .command .rdu8 := by decide

theorem test_decode_rds16 : decode .app 0b1010000000000000#16 = .command .rds16 := by decide

theorem test_decode_rdu16 : decode .app 0b1011000000000000#16 = .command .rdu16 := by decide

theorem test_decode_wrb : decode .app 0b1100000000000000#16 = .command .wrb := by decide

theorem test_decode_wrbs : decode .app 0b1101000000011010#16 = .command (.wrbs 26) := by decide

theorem test_decode_wrbs_max : decode .app 0xD01F#16 = .command (.wrbs 31) := by decide

theorem test_decode_wrs16 : decode .app 0b1110000000000000#16 = .command .wrs16 := by decide

theorem test_decode_wru16 : decode .app 0b1111000000000000#16 = .command .wru16 := by decide

theorem test_decode_reserved : decode .own 0x0ABC#16 = .illegal .reservedOpcode := by decide

theorem test_decode_push_at_app : decode .app 0x10FF#16 = .illegal .wrongPort := by decide

theorem test_decode_push_bit_8 : decode .rx 0x1100#16 = .illegal .reservedBits := by decide

theorem test_decode_pop_bit_0 : decode .own 0x3001#16 = .illegal .reservedBits := by decide

theorem test_decode_wrbs_bit_5 : decode .app 0xD020#16 = .illegal .reservedBits := by decide

theorem test_decode_wru16_low_bits : decode .app 0xFFFF#16 = .illegal .reservedBits := by decide

theorem test_table_word : decodeTableWord 16 0xD01A = some (.wrbs 26) := by decide

theorem test_table_word_reserved : decodeTableWord 16 0x0ABC = none := by decide

/-! ### The first step after reset runs the word placed for it -/

theorem test_fetch_connect :
    after (step (State.reset.withFetchWord 16 0x5000)) (fun s => (s.link, s.phase, s.connCaller))
      = some (.opening, .openPort, some (.app 0)) := by rfl

theorem test_fetch_push :
    after (step (State.reset.withFetchWord 16 0x1041)) (fun s => s.rx.map RxRec.rem) = some (some [0x41#8]) := by
  rfl

theorem test_fetch_fclose :
    after (step (State.reset.withFetchWord 16 0x4000)) State.fclosed = some true := by rfl

/-! ### Reset, STATUS, CONFIG and responses (L2.1, R260) -/

theorem test_status_reset : State.reset.statusWord = 0x00000001#32 := by decide

theorem test_status_reset_debug : (State.resetWith Config.referenceParams true).statusWord = 0x00000401#32 := by
  decide

theorem test_status_read_mode : (shaking .readMode 1#2).statusWord = 0x000032A1#32 := by decide

theorem test_status_ready_three : (queued ready [1#8, 2#8, 3#8]).statusWord = 0x00033030#32 := by decide

theorem test_status_ready_full : (queued ready [1#8, 2#8, 3#8, 4#8]).statusWord = 0x00043032#32 := by decide

theorem test_status_closed : (queued closed [1#8]).statusWord = 0x00012044#32 := by decide

theorem test_config_block : State.reset.configWord = 0x00B40004#32 := by decide

theorem test_config_drop : dropping.configWord = 0x00B50004#32 := by decide

theorem test_pack_minus_one : Rsp.pack { st := .ok, val := 0xFFFFFFFF#32 } = 0x00FFFFFFFF#40 := by decide

theorem test_pack_cancelled :
    Rsp.pack { st := .connectionFailed .cancelled, val := 0#32 } = 0x2100000000#40 := by decide

theorem test_pack_overflow : Rsp.pack { st := .overflow, val := 2#32 } = 0x7000000002#40 := by decide

/-! ### FIFO commands (L2.2) -/

/-- F1. -/
theorem test_push_issue :
    after (exec (.push 0x00#8) (pushing alone [])) State.rx
      = some (some { rem := [0x00#8], acc := 0, st := .ok }) := by decide

/-- F1: the micro-step. -/
theorem test_push_accept :
    after (rxStep (bursting alone [0x00#8])) (fun s => (s.queue, s.rsps, s.rx))
      = some ([0x00#8], [(.rx, { st := .ok, val := 1#32 })], none) := by decide

/-- F11. -/
theorem test_pushm_sideband_refused :
    after (exec (.pushm 3) (pushing alone [1#8, 2#8])) (fun s => (s.refused, s.rsps, s.rx)) = some (true, [], none) := by
  decide

/-- L2.1: PUSHM with N = 0 completes at issue. -/
theorem test_pushm_empty :
    after (exec (.pushm 0) (pushing alone [])) (fun s => (s.rsps, s.rx))
      = some ([(.rx, { st := .ok, val := 0#32 })], none) := by decide

/-- F4: the third micro-step of the second burst wraps to index 0. -/
theorem test_accept_wraps :
    after (rxStep (bursting { queued alone [1#8, 2#8, 3#8, 4#8] with head := 2#16, count := 2#16 } [5#8, 6#8]))
        (fun s => (s.tail, s.queue, s.mem.read 0))
      = some (1#16, [3#8, 4#8, 5#8], some 5#8) := by decide

/-- F12: the third byte under DROP, here with C = 4 and a full FIFO. -/
theorem test_drop_at_full :
    after (rxStep (bursting (queued dropping [1#8, 2#8, 3#8, 4#8]) [5#8])) (fun s => (s.ovf, s.queue, s.rsps))
      = some (true, [1#8, 2#8, 3#8, 4#8], [(.rx, { st := .overflow, val := 0#32 })]) := by decide

/-- L1.2: under BLOCK the same push holds. -/
theorem test_block_at_full : (bursting (queued alone [1#8, 2#8, 3#8, 4#8]) [5#8]).enabled .rxStep = false := by decide

/-- F6, F15: full and closed rejects. -/
theorem test_reject_full_closed :
    after (rxStep (bursting { queued dropping [1#8, 2#8, 3#8, 4#8] with fclosed := true } [5#8, 6#8]))
        (fun s => (s.ovf, s.rsps))
      = some (false, [(.rx, { st := .channelClosed, val := 0#32 })]) := by decide

/-- The example of R117. -/
theorem test_pop :
    after (exec .pop (queued alone [0x41#8, 0x42#8])) (fun s => (s.queue, s.rsps))
      = some ([0x42#8], [(.host, { st := .ok, val := 0x41#32 })]) := by decide

/-- F8. -/
theorem test_pop_closed :
    after (exec .pop { alone with fclosed := true }) (fun s => (s.count, s.rsps))
      = some (0#16, [(.host, { st := .channelClosed, val := 0#32 })]) := by decide

/-- F3: the held POP takes the byte that arrives. -/
theorem test_held_pop :
    after (ownStep { queued alone [0x41#8] with ownPop := some .own }) (fun s => (s.ownPop, s.rsps))
      = some (none, [(.own, { st := .ok, val := 0x41#32 })]) := by decide

/-- F10; the content stays. -/
theorem test_fclose :
    after (exec .fclose (queued alone [1#8])) (fun s => (s.fclosed, s.queue)) = some (true, [1#8]) := by decide

/-! ### Link control (L2.3) -/

/-- The example of R141. -/
theorem test_connect :
    after (exec .connect { State.reset with cur := appCmd 0x5000#16 0#32 [] .ok })
        (fun s => (s.link, s.phase, s.attempt, s.connCaller))
      = some (.opening, .openPort, 1#2, some (.app 0)) := by decide

/-- K10. -/
theorem test_connect_closed_refused : after (exec .connect closed) (fun s => (s.refused, s.rsps)) = some (true, []) := by
  decide

/-- K5: flush and close, and the error posted for the held CONNECT. -/
theorem test_close_in_read_mode :
    after (exec .close (shaking .readMode 1#2)) (fun s => (s.link, s.tev, s.connResult, s.fclosed))
      = some (.closed, [.flush, .close], some { st := .connectionFailed .closed, val := 0#32 }, true) := by decide

/-- K12. -/
theorem test_close_unopened :
    after (exec .close State.reset) (fun s => (s.link, s.tev, s.connResult)) = some (.closed, [], none) := by decide

/-- The example of R158. -/
theorem test_cancel :
    after (exec .cancel (shaking .readMode 1#2)) (fun s => (s.cancelReq, s.rsps))
      = some (true, [(.host, { st := .ok, val := 1#32 })]) := by decide

/-- K11. -/
theorem test_cancel_unopened :
    after (exec .cancel State.reset) (fun s => (s.cancelReq, s.rsps))
      = some (false, [(.host, { st := .ok, val := 0#32 })]) := by decide

/-- K1. -/
theorem test_open_fails :
    after (seqStep false .ok opening) (fun s => (s.link, s.tev, s.connResult))
      = some (.closed, [.opened false], some { st := .transportOpen, val := 0#32 }) := by decide

/-- K2: the first start write fails after 0 bytes. -/
theorem test_start_fails_once :
    after (seqStep true (.fail 0) (shaking .sendStart 1#2)) (fun s => (s.link, s.phase, s.tev, s.handle))
      = some (.opening, .cooldown, [.write [0x80#8] 0, .close], false) := by decide

/-- K3: the last attempt's start write fails. -/
theorem test_start_fails_twice :
    after (seqStep true (.fail 0) (shaking .sendStart 2#2)) (fun s => (s.link, s.tev, s.connResult))
      = some (.closed, [.write [0x80#8] 0, .close],
          some { st := .connectionFailed .attemptsExhausted, val := 0#32 }) := by decide

/-- L1.5 step 4. -/
theorem test_query :
    after (seqStep true .ok (shaking .sendQuery 1#2)) (fun s => (s.phase, s.polls, s.tev, s.tmr))
      = some (.delay, 1, [.write [0x8E#8, 0x23#8] 2], some .poll) := by decide

/-- L1.5 step 11. -/
theorem test_mode_passive :
    after (seqStep true .ok (queued (shaking .readMode 1#2) [0x01#8])) (fun s => (s.link, s.connResult, s.queue))
      = some (.ready, some { st := .ok, val := 0#32 }, []) := by decide

/-- K14. -/
theorem test_mode_other :
    after (seqStep true .ok (queued (shaking .readMode 1#2) [0x00#8])) (fun s => (s.phase, s.queue))
      = some (.sendQuery, []) := by decide

/-- K7: with a request pending the mode byte is not taken. -/
theorem test_cancel_wins :
    State.enabled { queued (shaking .readMode 1#2) [0x01#8] with cancelReq := true } (.seqStep true .ok) = false := by
  decide

/-! ### Typed reads (L2.4) -/

/-- T1. -/
theorem test_rds8_min :
    after (readStep (reading (queued ready [0x80#8]) .s8 none)) State.rsps
      = some [(.app 0, { st := .ok, val := 0xFFFFFF80#32 })] := by decide

/-- T14: a second reader. -/
theorem test_rds8_second_reader_refused :
    after (exec .rds8 (reading ready .u8 none)) (fun s => (s.refused, s.rd.map ReadRec.kind))
      = some (true, some .u8) := by decide

/-- T3. -/
theorem test_rdu8 :
    after (readStep (reading (queued ready [0x80#8]) .u8 none)) State.rsps
      = some [(.app 0, { st := .ok, val := 0x80#32 })] := by decide

/-- T13. -/
theorem test_rdu8_handshaking_refused :
    after (exec .rdu8 (queued (shaking .readMode 1#2) [1#8])) (fun s => (s.refused, s.queue)) = some (true, [1#8]) := by
  decide

/-- T5: the second pop. -/
theorem test_rds16_min :
    after (readStep (reading (queued ready [0x00#8]) .s16 (some 0x80#8))) State.rsps
      = some [(.app 0, { st := .ok, val := 0xFFFF8000#32 })] := by decide

/-- T9: the first pop. -/
theorem test_rdu16_first :
    after (readStep (reading (queued ready [0x12#8]) .u16 none)) (fun s => (s.rd.map ReadRec.hi, s.rsps))
      = some (some (some 0x12#8), []) := by decide

/-- T8: the second pop of RDU16. -/
theorem test_rdu16_second :
    after (readStep (reading (queued ready [0x03#8]) .u16 (some 0x02#8))) State.rsps
      = some [(.app 0, { st := .ok, val := 515#32 })] := by decide

/-- T10. -/
theorem test_close_splits_word :
    after (readStep (reading closed .u16 (some 0x12#8))) (fun s => (s.rd, s.rsps))
      = some (none, [(.app 0, { st := .channelClosed, val := 0#32 })]) := by decide

/-! ### Typed writes (L2.5) -/

/-- W1. -/
theorem test_wrb_300 :
    after (exec .wrb (writing ready 300#32 [] .ok)) (fun s => (s.tev, s.rsps))
      = some ([.write [0x2C#8] 1], [(.app 0, { st := .ok, val := 1#32 })]) := by decide

/-- W13. -/
theorem test_wrb_closed :
    after (exec .wrb (writing closed 1#32 [] .ok)) (fun s => (s.tev, s.rsps))
      = some ([], [(.app 0, { st := .channelClosed, val := 0#32 })]) := by decide

/-- W4. -/
theorem test_wrbs_slice :
    after (exec (.wrbs 3) (writing ready 1#32 [9#32, 0x8E#32, 0x23#32, 300#32] .ok)) (fun s => (s.tev, s.rsps))
      = some ([.write [0x8E#8, 0x23#8, 0x2C#8] 3], [(.app 0, { st := .ok, val := 3#32 })]) := by decide

/-- W14. -/
theorem test_wrbs_27_closed :
    after (exec (.wrbs 27) (writing closed 0#32 [] .ok)) State.rsps
      = some [(.app 0, { st := .invalidArgument, val := 0#32 })] := by decide

/-- W8. -/
theorem test_wrs16_minus_two :
    after (exec .wrs16 (writing ready 0xFFFFFFFE#32 [] .ok)) (fun s => (s.tev, s.rsps))
      = some ([.write [0xFF#8, 0xFE#8] 2], [(.app 0, { st := .ok, val := 2#32 })]) := by decide

/-- W15. -/
theorem test_wrs16_range_closed :
    after (exec .wrs16 (writing closed 40000#32 [] .ok)) (fun s => (s.refused, s.rsps)) = some (true, []) := by decide

/-- W12. -/
theorem test_wru16_fails :
    after (exec .wru16 (writing ready 500#32 [] (.fail 1))) (fun s => (s.tev, wire s.tev, s.rsps, s.link))
      = some ([.write [0x01#8, 0xF4#8] 1], [0x01#8], [(.app 0, { st := .transportIo, val := 0#32 })], .ready) := by
  decide

/-- W11. -/
theorem test_wru16_minus_one_refused :
    after (exec .wru16 (writing ready 0xFFFFFFFF#32 [] .ok)) (fun s => (s.refused, s.tev)) = some (true, []) := by
  decide

/-! ### Witnesses: states and operands that meet a statement's hypotheses together -/

theorem test_witness_DecodeEncodeAgree :
    (Instr.push 0xFF#8).wf = true ∧ (Instr.pushm 4095).wf = true ∧ (Instr.wrbs 31).wf = true := by decide

theorem test_witness_DecodedWordIsItsEncoding :
    decode .rx 0x2FFF#16 = .command (.pushm 4095) ∧ decode .app 0xD01F#16 = .command (.wrbs 31) := by decide

theorem test_witness_IllegalCommandResponds :
    ∀ w ∈ [(0x0ABC#16, IllegalReason.reservedOpcode), (0x10FF#16, .wrongPort), (0xFFFF#16, .reservedBits)],
      State.nextMove { State.reset with sched := [.issue (appCmd w.1 0#32 [] .ok)] }
          = .issue (appCmd w.1 0#32 [] .ok) ∧
        State.canIssue
            (State.advance { State.reset with sched := [.issue (appCmd w.1 0#32 [] .ok)] })
            (appCmd w.1 0#32 [] .ok) = true ∧
          decode (appCmd w.1 0#32 [] .ok).agent.port (appCmd w.1 0#32 [] .ok).cw = .illegal w.2 := by decide

theorem test_witness_StepRunsDecodedCommand :
    (State.reset.withFetchWord 16 0x6000).nextMove = .issue (fetchCmd 0x6000#16) ∧
      (State.reset.withFetchWord 16 0x6000).advance.canIssue (fetchCmd 0x6000#16) = true ∧
        decode (fetchCmd 0x6000#16).agent.port (fetchCmd 0x6000#16).cw = .command .close := by decide

theorem test_witness_PushesStartTheirBurst :
    (pushing ready [1#8, 2#8]).rx = none ∧ (pushing ready [1#8, 2#8]).cur.burst.length ≠ 3 ∧
      (pushing ready []).cur.burst.length = 0 ∧ (pushing ready [1#8]).cur.burst.length = 1 ∧
        (bursting ready [1#8]).rx.isSome = true ∧ (pushing ready [1#8]).cur.agent = .rx := by decide

theorem test_witness_PushesStartTheirBurst_longest :
    (pushing ready (List.replicate 4095 0#8)).rx = none ∧
      (pushing ready (List.replicate 4095 0#8)).cur.burst.length = 4095 :=
  ⟨rfl, List.length_replicate⟩

theorem test_inv_empty : FifoInv (bursting ready [1#8, 2#8]) := fifoInv_of (by decide)

theorem test_inv_one_space : FifoInv (bursting (queued ready [1#8, 2#8, 3#8]) [4#8]) := fifoInv_of (by decide)

theorem test_inv_full : FifoInv (bursting (queued ready [1#8, 2#8, 3#8, 4#8]) [5#8]) := fifoInv_of (by decide)

theorem test_inv_wrapping : FifoInv wrapping := fifoInv_of (by decide)

theorem test_witness_AcceptStoresOneByte :
    FifoInv (bursting (queued ready [1#8, 2#8, 3#8]) [4#8]) ∧
      (bursting (queued ready [1#8, 2#8, 3#8]) [4#8]).rx = some { rem := [4#8], acc := 0, st := .ok } ∧
        (bursting (queued ready [1#8, 2#8, 3#8]) [4#8]).fclosed = false ∧
          (bursting (queued ready [1#8, 2#8, 3#8]) [4#8]).count.toNat < 4 :=
  ⟨test_inv_one_space, by decide⟩

theorem test_witness_AcceptStoresOneByte_more :
    FifoInv (bursting ready [1#8, 2#8]) ∧
      (bursting ready [1#8, 2#8]).rx = some { rem := [1#8, 2#8], acc := 0, st := .ok } ∧
        (bursting ready [1#8, 2#8]).fclosed = false ∧ (bursting ready [1#8, 2#8]).count.toNat < 4 :=
  ⟨test_inv_empty, by decide⟩

theorem test_witness_AcceptStoresOneByte_step :
    ∃ t, step { bursting ready [1#8] with sched := [.rxStep] } = .next t ∧
      t.mem ≠ State.mem { bursting ready [1#8] with sched := [.rxStep] } :=
  ⟨_, rfl, by decide⟩

theorem test_witness_DropAtFullSetsOverflow :
    ∀ bs ∈ [[5#8], [5#8, 6#8]],
      (bursting (queued dropping [1#8, 2#8, 3#8, 4#8]) bs).rx = some { rem := bs, acc := 0, st := .ok } ∧
        (bursting (queued dropping [1#8, 2#8, 3#8, 4#8]) bs).cfg.policy = .drop ∧
          (bursting (queued dropping [1#8, 2#8, 3#8, 4#8]) bs).fclosed = false ∧
            (bursting (queued dropping [1#8, 2#8, 3#8, 4#8]) bs).count
              = (bursting (queued dropping [1#8, 2#8, 3#8, 4#8]) bs).cfg.depth := by decide

theorem test_witness_BlockAtFullHolds :
    FifoInv (bursting (queued ready [1#8, 2#8, 3#8, 4#8]) [5#8]) ∧
      (bursting (queued ready [1#8, 2#8, 3#8, 4#8]) [5#8]).rx = some { rem := [5#8], acc := 0, st := .ok } ∧
        (bursting (queued ready [1#8, 2#8, 3#8, 4#8]) [5#8]).cfg.policy = .block ∧
          (bursting (queued ready [1#8, 2#8, 3#8, 4#8]) [5#8]).fclosed = false ∧
            (bursting (queued ready [1#8, 2#8, 3#8, 4#8]) [5#8]).count = 4#16 ∧
              ∃ t, (bursting (queued ready [1#8, 2#8, 3#8, 4#8]) [5#8]).fifoPop = .byte 1#8 t :=
  ⟨test_inv_full, by decide, by decide, by decide, by decide, _, rfl⟩

theorem test_witness_PushAtClosedRejects :
    (bursting (queued closed [1#8, 2#8, 3#8, 4#8]) [5#8, 6#8]).rx
        = some { rem := [5#8, 6#8], acc := 0, st := .ok } ∧
      (bursting (queued closed [1#8, 2#8, 3#8, 4#8]) [5#8, 6#8]).fclosed = true := by decide

theorem test_witness_BurstCompletesWithSpace :
    FifoInv (pushing ready [1#8, 2#8, 3#8, 4#8]) ∧ (pushing ready [1#8, 2#8, 3#8, 4#8]).rx = none ∧
      (pushing ready [1#8, 2#8, 3#8, 4#8]).fclosed = false ∧
        (pushing ready [1#8, 2#8, 3#8, 4#8]).cur.burst.length = 4 ∧
          (pushing ready [1#8, 2#8, 3#8, 4#8]).count.toNat + 4
            ≤ (pushing ready [1#8, 2#8, 3#8, 4#8]).cfg.depth.toNat :=
  ⟨fifoInv_of (by decide), by decide⟩

theorem test_witness_PopReturnsOldestByte : FifoInv wrapping ∧ wrapping.queue = [0x77#8] :=
  ⟨test_inv_wrapping, by decide⟩

theorem test_witness_PopAtClosedEmptyReportsClosed :
    closed.count = 0#16 ∧ closed.fclosed = true ∧ ∃ t, step { closed with sched := [.rxStep] } = .next t :=
  ⟨by decide, by decide, _, rfl⟩

theorem test_witness_PopAtOpenEmptyHolds :
    FifoInv { alone with ownPop := some .own } ∧ alone.count = 0#16 ∧ alone.fclosed = false ∧
      FifoInv { queued alone [0x41#8] with ownPop := some .own } ∧ (queued alone [0x41#8]).queue = [0x41#8] :=
  ⟨fifoInv_of (by decide), by decide, by decide, fifoInv_of (by decide), by decide⟩

theorem test_witness_HoldsLiftAtOnce :
    FifoInv (bursting ready [1#8, 2#8]) ∧
      State.enabled (State.advance { ready with sched := [.tmrStep] }) .tmrStep = false :=
  ⟨test_inv_empty, by decide⟩

theorem test_witness_HoldsLiftAtOnce_present :
    ready.cfg.standalone = false ∧ ready.handle = true ∧ ready.rx = none ∧ State.reset.handle = false ∧
      (fetchCmd 0x2FFF#16).agent = .rx ∧ { fetchCmd 0x6000#16 with agent := .host }.cw = encode .close ∧
        { fetchCmd 0x7000#16 with agent := .host }.cw = encode .cancel ∧
          alone.cfg.standalone = true ∧ alone.rx = none ∧ alone.ownPop = none ∧
            (fetchCmd 0x3000#16).agent = .own := by decide

/-- Each agent's own move, with a state in which its step is enabled. -/
def enabledMoves : List (State × Move) :=
  [(bursting ready [1#8], .rxStep), ({ queued alone [0x41#8] with ownPop := some .own }, .ownStep),
    (reading (queued ready [0x41#8]) .u8 none, .readStep),
    ({ ready with connCaller := some (.app 0), connResult := some okRsp }, .connDone),
    (opening, .seqStep true .ok), (shaking .sendStart 1#2, .seqStep true (.fail 0)),
    ({ opening with cancelReq := true }, .cancelStep), (cooling, .tmrStep)]

theorem test_witness_StepRunsDecodedCommand_moves :
    ∀ x ∈ enabledMoves,
      (x.1.withMove x.2).nextMove = x.2 ∧ (x.1.withMove x.2).advance.enabled (x.1.withMove x.2).nextMove = true := by
  decide

/-- 40_fifo_ops.md R122, example: FCLOSE while a POP is held answers OK, and the POP then CHANNEL_CLOSED. -/
theorem test_fclose_releases_held_pop :
    after (step { (State.reset.withFetchWord 16 0x4000) with ownPop := some .own })
        (fun s => (s.fclosed, s.rsps, after (ownStep s) State.rsps))
      = some (true, [(.own, { st := .ok, val := 0#32 })],
          some [(.own, { st := .ok, val := 0#32 }), (.own, { st := .channelClosed, val := 0#32 })]) := by decide

theorem test_witness_PopAtOpenEmptyHolds_present :
    State.ownPop { alone with ownPop := some .own } = some .own ∧ alone.cfg.standalone = true ∧
      State.enabled { alone with ownPop := some .own } (.issue (fetchCmd 0x4000#16)) = true ∧
        (fetchCmd 0x4000#16).agent = .own ∧ (fetchCmd 0x4000#16).cw = encode .fclose ∧
          (fetchCmd 0x3000#16).agent = .own ∧ (fetchCmd 0x3000#16).cw = encode .pop := by decide

theorem test_witness_HoldsLiftAtOnce_agents :
    opening.connCaller = some (.app 0) ∧ (reading ready .u8 none).rd.map ReadRec.agent = some (.app 0) ∧
      opening.connCaller ≠ some (.app 1) ∧ opening.rd.map ReadRec.agent ≠ some (.app 1) ∧ 1 < opening.cfg.nApp ∧
        opening.cfg.standalone = false ∧ (fetchCmd 0x6000#16).agent = .app 0 := by decide

/-- A READY block with a burst and a read in flight, about to take a micro-step. -/
def busy : State := { reading (bursting (queued ready [1#8]) [2#8, 3#8]) .u16 none with sched := [.rxStep] }

theorem test_inv_busy : FifoInv busy := fifoInv_of (by decide)

theorem test_witness_StepKeepsFifoInvariant : FifoInv busy ∧ ∃ t, step busy = .next t := ⟨test_inv_busy, _, rfl⟩

theorem test_witness_StepKeepsFifoOrder : FifoInv busy ∧ FifoOrder busy ∧ ∃ t, step busy = .next t :=
  ⟨test_inv_busy, by rfl, _, rfl⟩

theorem test_witness_StepKeepsArrivalOrder : BurstInv busy ∧ ArrivalInv busy ∧ ∃ t, step busy = .next t := by
  refine ⟨⟨?_, ?_, ?_, ?_, ?_, ?_⟩, ⟨?_, ?_⟩, _, rfl⟩
  · rintro r ⟨⟩
    decide
  · rintro r ⟨⟩
    decide
  · rintro r ⟨⟩
    decide
  · rintro r ⟨⟩
    decide
  · decide
  · decide
  · decide
  · intro _ _
    rfl

theorem test_witness_StepKeepsArrivalOrder_drop :
    (bursting (queued dropping [1#8, 2#8, 3#8, 4#8]) [5#8, 6#8]).pending = [5#8, 6#8] ∧
      after (step { bursting (queued dropping [1#8, 2#8, 3#8, 4#8]) [5#8, 6#8] with sched := [.rxStep] })
          (fun t => (t.accepted, t.pending, t.instream))
        = some ([1#8, 2#8, 3#8, 4#8], [6#8], [1#8, 2#8, 3#8, 4#8, 5#8, 6#8]) := by decide

theorem test_inv_shaking : LinkInv (shaking .sendQuery 1#2) := linkInv_of rfl (by decide)

theorem test_witness_StepKeepsLinkInvariant :
    LinkInv { shaking .sendQuery 1#2 with sched := [.seqStep true (.fail 1)] } ∧
      RoleInv { shaking .sendQuery 1#2 with sched := [.seqStep true (.fail 1)] } ∧
        ∃ t, step { shaking .sendQuery 1#2 with sched := [.seqStep true (.fail 1)] } = .next t :=
  ⟨linkInv_of rfl (by decide), roleInv_of (by decide), _, rfl⟩

theorem test_witness_parameters :
    Params.wf { depth := 1#16, policy := .drop, nApp := 1, baud := 0, maxAttempts := 3#2, maxCmd := 31#5, scratchSize := 31, standalone := true } = true ∧
      Params.wf { depth := 0xFFFF#16, policy := .block, nApp := 3, baud := 0, standalone := false } = true := by decide

theorem test_witness_StepNeverStops : FifoInv { busy with sched := [.readStep] } := fifoInv_of (by decide)

theorem test_witness_ParametersNeverChange : ∃ t, step { ready with sched := [.tmrStep] } = .next t := ⟨_, rfl⟩

theorem test_witness_MarksAreSticky :
    LinkInv { closed with ovf := true, refused := true, sched := [.rxStep] } ∧ closed.fclosed = true ∧
      closed.link = .closed ∧ ∃ t, step { closed with ovf := true, refused := true, sched := [.rxStep] } = .next t :=
  ⟨linkInv_of rfl (by decide), by decide, by decide, _, rfl⟩

theorem test_witness_AtMostOneWritePerStep :
    ∃ t, step { shaking .sendStart 1#2 with sched := [.seqStep true .ok] } = .next t := ⟨_, rfl⟩

theorem test_witness_ConnectStartsFromUnopened : State.reset.link = .unopened := by decide

theorem test_witness_ConnectOutsideUnopened :
    ready.link = .ready ∧ opening.link = .opening ∧ (shaking .delay 1#2).link = .handshaking ∧
      closed.link = .closed := by decide

theorem test_witness_ConnectCompletion :
    LinkInv { ready with connCaller := some (.app 0), connResult := some okRsp } := by
  refine ⟨?_, ?_, ?_, ?_, ?_, ?_, ?_, ?_, ?_, ?_, ?_, ?_, ?_, ?_, ?_⟩
  case refine_12 =>
    rintro - r ⟨⟩
    rfl
  case refine_13 => exact fun h => absurd h (by decide)
  all_goals decide

theorem test_witness_ConnectCompletion_closed :
    LinkInv { closed with connCaller := some (.app 0), connResult := some (errorRsp .transportOpen) } := by
  refine ⟨?_, ?_, ?_, ?_, ?_, ?_, ?_, ?_, ?_, ?_, ?_, ?_, ?_, ?_, ?_⟩
  case refine_12 => exact fun h => absurd h (by decide)
  case refine_13 =>
    rintro - r ⟨⟩
    exact ⟨rfl, .inl rfl⟩
  all_goals decide

theorem test_witness_SequencerDiscipline_idle : LinkInv ready ∧ ready.phase = .idle :=
  ⟨linkInv_of rfl (by decide), by decide⟩

theorem test_witness_SequencerDiscipline_phases :
    LinkInv opening ∧ LinkInv (shaking .sendStart 1#2) ∧ LinkInv (shaking .sendQuery 1#2) ∧
      LinkInv (shaking .delay 1#2) ∧ LinkInv (shaking .readMode 1#2) ∧ LinkInv cooling :=
  ⟨linkInv_of rfl (by decide), linkInv_of rfl (by decide), linkInv_of rfl (by decide),
    linkInv_of rfl (by decide), linkInv_of rfl (by decide), linkInv_of rfl (by decide)⟩

theorem test_witness_SequencerDiscipline_cancel :
    LinkInv { shaking .delay 1#2 with cancelReq := true } ∧ LinkInv { cooling with cancelReq := true } ∧
      LinkInv { shaking .readMode 1#2 with cancelReq := true } :=
  ⟨linkInv_of rfl (by decide), linkInv_of rfl (by decide), linkInv_of rfl (by decide)⟩

theorem test_witness_OpenStepEffect : opening.phase = .openPort ∧ opening.link = .opening := by decide

theorem test_witness_handshake_writes :
    (shaking .sendStart 1#2).phase = .sendStart ∧ (shaking .sendQuery 2#2).phase = .sendQuery ∧
      (shaking .sendStart 1#2).attempt.toNat < (shaking .sendStart 1#2).cfg.maxAttempts.toNat ∧
        (shaking .sendQuery 2#2).cfg.maxAttempts.toNat ≤ (shaking .sendQuery 2#2).attempt.toNat := by decide

theorem test_witness_DelayEnds :
    (shaking .delay 1#2).phase = .delay ∧ (shaking .delay 1#2).tmr = some .poll ∧
      (shaking .delay 1#2).cancelReq = false ∧ cooling.phase = .cooldown ∧ cooling.tmr = some .cooldown ∧
        cooling.cancelReq = false := by decide

theorem test_witness_ModeReadDecides :
    FifoInv (queued (shaking .readMode 1#2) [0x01#8, 0x02#8]) ∧
      (queued (shaking .readMode 1#2) [0x01#8, 0x02#8]).phase = .readMode ∧
        (queued (shaking .readMode 1#2) [0x01#8, 0x02#8]).cancelReq = false ∧
          (queued (shaking .readMode 1#2) [0x01#8, 0x02#8]).queue = [0x01#8, 0x02#8] :=
  ⟨fifoInv_of (by decide), by decide⟩

theorem test_witness_PollRoundRepeats :
    FifoInv (queued (shaking .sendQuery 1#2) [0x00#8]) ∧
      (queued (shaking .sendQuery 1#2) [0x00#8]).link = .handshaking ∧
        (queued (shaking .sendQuery 1#2) [0x00#8]).phase = .sendQuery ∧
          (queued (shaking .sendQuery 1#2) [0x00#8]).cancelReq = false ∧
            (queued (shaking .sendQuery 1#2) [0x00#8]).queue = [0x00#8] ∧ 0x00#8 ≠ (shaking .sendQuery 1#2).cfg.passive :=
  ⟨fifoInv_of (by decide), by decide⟩

theorem test_witness_link_states :
    opening.link = .opening ∧ (shaking .delay 1#2).link = .handshaking ∧ State.reset.link = .unopened ∧
      ready.link = .ready ∧ closed.link = .closed := by decide

theorem test_witness_CancelPreventsReady :
    State.cancelReq { shaking .readMode 1#2 with cancelReq := true, sched := [.cancelStep] } = true ∧
      (shaking .readMode 1#2).link = .handshaking ∧
        ∃ t, step { shaking .readMode 1#2 with cancelReq := true, sched := [.cancelStep] } = .next t :=
  ⟨by decide, by decide, _, rfl⟩

theorem test_witness_TransitionsAreInTable :
    ∀ n ∈ [1#2, 2#2],
      FifoInv { shaking .sendStart n with sched := [.seqStep true (.fail 0)] } ∧
        LinkInv { shaking .sendStart n with sched := [.seqStep true (.fail 0)] } ∧
          RoleInv { shaking .sendStart n with sched := [.seqStep true (.fail 0)] } ∧
            after (step { shaking .sendStart n with sched := [.seqStep true (.fail 0)] })
                (fun t => (t.link, t.phase))
              = some (if n = 1#2 then (.opening, .cooldown) else (.closed, .idle)) := by
  intro n hn
  simp only [List.mem_cons, List.not_mem_nil, or_false] at hn
  rcases hn with rfl | rfl
  · exact ⟨fifoInv_of (by decide), linkInv_of rfl (by decide), roleInv_of (by decide), by decide⟩
  · exact ⟨fifoInv_of (by decide), linkInv_of rfl (by decide), roleInv_of (by decide), by decide⟩

theorem test_witness_TransitionsAreInTable_retry :
    FifoInv { cooling with sched := [.tmrStep] } ∧ LinkInv { cooling with sched := [.tmrStep] } ∧
      RoleInv { cooling with sched := [.tmrStep] } ∧
        after (step { cooling with sched := [.tmrStep] }) (fun t => (t.link, t.phase, t.attempt))
          = some (.opening, .openPort, 2#2) :=
  ⟨fifoInv_of (by decide), linkInv_of rfl (by decide), roleInv_of (by decide), by decide⟩

/-- A run from DELAY in which the timer fires first and every later move is a hold in READ_MODE. -/
def delayRun : Nat → State
  | 0 => shaking .delay 1#2
  | n + 1 => { shaking .readMode 1#2 with tick := n + 1 }

theorem test_witness_DelayEndsUnderFairness :
    IsRun (fun _ => .tmrStep) delayRun ∧ (∀ n, LinkInv (delayRun n)) ∧
      WeaklyFair (fun _ => .tmrStep) delayRun (· = .tmrStep) ∧
        WeaklyFair (fun _ => .tmrStep) delayRun (· = .cancelStep) ∧ (delayRun 0).phase = .delay := by
  refine ⟨fun n => ?_, fun n => ?_, fun h => ?_, fun h => ?_, rfl⟩
  · cases n <;> rfl
  · cases n
    · exact linkInv_of rfl (by decide)
    · have h : LinkInv (shaking .readMode 1#2) := linkInv_of rfl (by decide)
      exact ⟨h.pair, h.tmr_poll, h.tmr_cooldown, h.handle, h.cancel, h.attempts_pos, h.attempt_le, h.attempt_pos,
        h.attempt_cooldown, h.caller, h.result, h.result_ready, h.result_closed, h.unopened, h.read⟩
  · obtain ⟨n, hn⟩ := h
    obtain ⟨m, rfl, hm⟩ := hn (n + 1) (by omega)
    exact absurd (show State.enabled (shaking .readMode 1#2) .tmrStep = true from hm) (by decide)
  · obtain ⟨n, hn⟩ := h
    obtain ⟨m, rfl, hm⟩ := hn (n + 1) (by omega)
    exact absurd (show State.enabled (shaking .readMode 1#2) .cancelStep = true from hm) (by decide)

theorem test_witness_TypedReadStarts :
    readKindOf .rds8 = some .s8 ∧ readKindOf .rdu8 = some .u8 ∧ readKindOf .rds16 = some .s16 ∧
      readKindOf .rdu16 = some .u16 ∧ ready.link = .ready ∧ ready.rd = none ∧ closed.link = .closed ∧
        closed.rd = none := by decide

theorem test_witness_TypedCommandsRefused :
    readKindOf .rds8 ≠ none ∧ ready.writeCheck .wrb ≠ none ∧ State.reset.link = .unopened ∧
      (reading ready .u8 none).rd ≠ none := by decide

theorem test_witness_ByteReadsComplete :
    FifoInv wrapping ∧ wrapping.link = .ready ∧ wrapping.rd = none ∧ wrapping.queue = [0x77#8] :=
  ⟨test_inv_wrapping, by decide⟩

theorem test_witness_WordReadsComplete :
    FifoInv (queued closed [0x80#8, 0x00#8]) ∧ (queued closed [0x80#8, 0x00#8]).link = .closed ∧
      (queued closed [0x80#8, 0x00#8]).rd = none ∧ (queued closed [0x80#8, 0x00#8]).queue = [0x80#8, 0x00#8] :=
  ⟨fifoInv_of (by decide), by decide⟩

theorem test_witness_CloseSplitsWordRead :
    (reading closed .s16 (some 0x12#8)).rd = some { agent := .app 0, kind := .s16, hi := some 0x12#8 } ∧
      (reading closed .s16 (some 0x12#8)).fclosed = true ∧ (reading closed .s16 (some 0x12#8)).count = 0#16 ∧
        FifoInv (reading (queued closed [0x34#8]) .u16 (some 0x12#8)) ∧
          (reading (queued closed [0x34#8]) .u16 (some 0x12#8)).queue = [0x34#8] :=
  ⟨by decide, by decide, by decide, fifoInv_of (by decide), by decide⟩

theorem test_witness_HeldReadStep_byte :
    ∀ k ∈ [ReadKind.s8, .u8, .s16, .u16], ∀ h ∈ [none, some 0xFF#8],
      FifoInv (reading (queued ready [0x80#8]) k h) ∧ (reading (queued ready [0x80#8]) k h).queue = [0x80#8] ∧
        (reading (queued ready [0x80#8]) k h).rd = some { agent := .app 0, kind := k, hi := h } := by
  intro k _ h _
  exact ⟨FifoInv.of_fifoView (fifoInv_of (s := queued ready [0x80#8]) (by decide)) rfl, rfl, rfl⟩

theorem test_witness_HeldReadStep_empty :
    (reading closed .u16 none).count = 0#16 ∧ (reading closed .u16 none).fclosed = true ∧
      (reading ready .u16 none).count = 0#16 ∧ (reading ready .u16 none).fclosed = false ∧
        (reading ready .u16 none).link = .ready := by decide

theorem test_witness_ReadInClosedEmptyAnswers :
    readKindOf .rds8 = some .s8 ∧ RoleInv closed ∧ closed.cfg.standalone = false ∧ closed.link = .closed ∧
      closed.rd = none ∧ closed.count = 0#16 :=
  ⟨by decide, roleInv_of (by decide), by decide⟩

theorem test_witness_ByteAndWordWritesSend :
    (writing ready 0#32 [] .ok).link = .ready ∧ (writing ready 0#32 [] .ok).cur.draw = .ok ∧
      (writing ready 0xFFFF8000#32 [] .ok).cur.arg.toInt = -32768 ∧
        (writing ready 0x7FFF#32 [] .ok).cur.arg.toInt = 32767 ∧
          (writing ready 0#32 [] .ok).cur.arg.toInt = 0 ∧
            (writing ready 0xFFFF#32 [] .ok).cur.arg.toInt = 65535 := by decide

theorem test_witness_SliceWriteSends :
    (writing ready 4#32 (List.replicate 30 7#32) .ok).link = .ready ∧
      (writing ready 4#32 (List.replicate 30 7#32) .ok).cur.draw = .ok ∧
        (writing ready 4#32 (List.replicate 30 7#32) .ok).cur.arg.toInt = (4 : Nat) ∧ 26 ≤ ready.cfg.maxCmd.toNat ∧
          4 + 26 ≤ (writing ready 4#32 (List.replicate 30 7#32) .ok).cur.values.length ∧
            (writing ready 4#32 [1#32, 2#32, 3#32, 4#32] .ok).cur.arg.toInt = (4 : Nat) ∧
              4 + 0 ≤ (writing ready 4#32 [1#32, 2#32, 3#32, 4#32] .ok).cur.values.length := by decide

theorem test_witness_BadWriteOperands :
    (writing closed 0#32 [] .ok).link = .closed ∧ closed.cfg.maxCmd.toNat < 27 ∧ (writing ready 0xFFFFFFFF#32 [] .ok).cur.arg.toInt < 0 ∧
      ((writing ready 5#32 (List.replicate 30 7#32) .ok).cur.values.length : Int)
          < (writing ready 5#32 (List.replicate 30 7#32) .ok).cur.arg.toInt + 26 ∧
        (writing ready 0xFFFF7FFF#32 [] .ok).cur.arg.toInt < -32768 ∧
          32767 < (writing ready 0x8000#32 [] .ok).cur.arg.toInt ∧
            65535 < (writing ready 0x10000#32 [] .ok).cur.arg.toInt := by decide

theorem test_witness_WriteFailureReportsTransportIo :
    (writing ready 500#32 [] (.fail 0)).writeCheck .wru16 = some (.send [0x01#8, 0xF4#8]) ∧
      (writing ready 500#32 [] (.fail 1)).writeCheck .wru16 = some (.send [0x01#8, 0xF4#8]) ∧
        (writing ready 500#32 [] (.fail 1)).link = .ready ∧
          (writing ready 500#32 [] (.fail 1)).cur.draw = .fail 1 := by decide

theorem test_witness_WriteInClosedReportsClosed :
    (writing closed 1#32 [] .ok).writeCheck .wrb = some (.send [0x01#8]) ∧
      (writing closed 1#32 [] .ok).link = .closed ∧
        (writing closed 0#32 [] .ok).writeCheck (.wrbs 0) = some (.send []) := by decide

theorem test_witness_WordWriteReadRoundTrip :
    (writing ready (BitVec.ofInt 32 (-32768)) [] .ok).link = .ready ∧
      (writing ready (BitVec.ofInt 32 (-32768)) [] .ok).cur.arg = BitVec.ofInt 32 (-32768) ∧
        (writing ready (BitVec.ofInt 32 (-32768)) [] .ok).cur.draw = .ok ∧
          FifoInv (queued ready [0x80#8, 0x00#8]) ∧ (queued ready [0x80#8, 0x00#8]).link = .ready ∧
            (queued ready [0x80#8, 0x00#8]).rd = none ∧
              (queued ready [0x80#8, 0x00#8]).queue = [0x80#8, 0x00#8] ++ [] :=
  ⟨by decide, by decide, by decide, fifoInv_of (by decide), by decide⟩

theorem test_witness_WordWriteReadRoundTrip_unsigned :
    (writing ready (BitVec.ofInt 32 65535) [] .ok).link = .ready ∧
      (writing ready (BitVec.ofInt 32 65535) [] .ok).cur.arg = BitVec.ofInt 32 65535 ∧
        (writing ready (BitVec.ofInt 32 65535) [] .ok).cur.draw = .ok ∧
          FifoInv (queued ready [0xFF#8, 0xFF#8]) ∧ (queued ready [0xFF#8, 0xFF#8]).link = .ready ∧
            (queued ready [0xFF#8, 0xFF#8]).rd = none ∧
              (queued ready [0xFF#8, 0xFF#8]).queue = [0xFF#8, 0xFF#8] ++ [] :=
  ⟨by decide, by decide, by decide, fifoInv_of (by decide), by decide⟩

end Sys2Proof.Machine
end

/-! The reset inputs (00_scope.md R7, R8, 10_state.md R29): the parameters and DEBUG are set at reset, and no operation
writes them. One lemma for each operation that is more than a record update or a response, then the commands, the agents'
steps and the step. -/

namespace Sys2Proof.Machine

/-- What reset fixes for good: the parameters and DEBUG, the arguments of `State.resetWith`. -/
def State.inputs (s : State) : Params × Bool := (s.cfg, s.debug)

/-- CONFIG reads the parameters alone (10_state.md R31). -/
theorem configWord_of_inputs {s t : State} (h : t.inputs = s.inputs) : t.configWord = s.configWord := by
  have hcfg : t.cfg = s.cfg := congrArg Prod.fst h
  rw [State.configWord, State.configWord, hcfg]

theorem advance_inputs (s : State) : s.advance.inputs = s.inputs := rfl

theorem present_inputs (s : State) (c : Cmd) : (s.present c).inputs = s.inputs := rfl

theorem finishBurst_inputs (s : State) (r : RxRec) : (s.finishBurst r).inputs = s.inputs := by
  simp [State.inputs]

theorem enterClosed_inputs (s : State) (res : Option Rsp) : (s.enterClosed res).inputs = s.inputs := by
  simp [State.inputs]

theorem attemptFail_inputs (s : State) : s.attemptFail.inputs = s.inputs := by
  rw [attemptFail_eq]
  split
  · rfl
  · exact enterClosed_inputs _ _

theorem fifoPop_inputs {s u : State} {b : Byte} (h : s.fifoPop = .byte b u) : u.inputs = s.inputs := by
  obtain ⟨-, -, -, rfl⟩ := fifoPop_byte h
  rfl

theorem modeCompare_inputs (s : State) (b : Byte) : (s.modeCompare b).inputs = s.inputs := by
  unfold State.modeCompare
  split <;> rfl

theorem openStep_inputs (s : State) (answer : Bool) : (s.openStep answer).inputs = s.inputs := by
  cases answer with
  | true => rfl
  | false => exact enterClosed_inputs _ _

theorem sendStartStep_inputs (s : State) (d : WriteDraw) : (s.sendStartStep d).inputs = s.inputs := by
  cases d with
  | ok => rfl
  | fail k => exact attemptFail_inputs _

theorem sendQueryStep_inputs (s : State) (d : WriteDraw) : (s.sendQueryStep d).inputs = s.inputs := by
  cases d with
  | ok => rfl
  | fail k => exact attemptFail_inputs _

theorem exec_inputs {i : Instr} {s t : State} (h : exec i s = .next t) : t.inputs = s.inputs := by
  cases exec_cases h with
  | pop b u hp ht => exact ht ▸ (fifoPop_inputs hp :)
  | close res hl hr ht => exact ht ▸ enterClosed_inputs s res
  | respond | refuse | same | burst | popHold | fclose | connect | cancel | read | write => subst t; rfl

theorem rxStep_inputs {s t : State} (h : rxStep s = .next t) : t.inputs = s.inputs := by
  rcases rxStep_cases h with ⟨rfl, -⟩ | ⟨r, b, -, -, ⟨-, rfl⟩ | ⟨-, rfl⟩ | ⟨-, rfl⟩⟩
  · rfl
  all_goals exact finishBurst_inputs _ _

theorem ownStep_inputs {s t : State} (h : ownStep s = .next t) : t.inputs = s.inputs := by
  rcases ownStep_cases h with rfl | ⟨a, -, ⟨b, u, hp, rfl⟩ | ⟨-, rfl⟩⟩
  · rfl
  · exact (fifoPop_inputs hp :)
  · rfl

theorem readStep_inputs {s t : State} (h : readStep s = .next t) : t.inputs = s.inputs := by
  rcases readStep_cases h with rfl | ⟨r, -, ⟨-, rfl⟩ | ⟨b, u, hp, ⟨v, -, rfl⟩ | ⟨-, rfl⟩⟩⟩
  · rfl
  · rfl
  all_goals exact (fifoPop_inputs hp :)

theorem connDone_inputs {s t : State} (h : connDone s = .next t) : t.inputs = s.inputs := by
  rcases connDone_cases h with rfl | ⟨a, r, -, -, rfl⟩ <;> rfl

theorem readModeStep_inputs {s t : State} (h : s.readModeStep = .next t) : t.inputs = s.inputs := by
  rcases readModeStep_cases h with rfl | ⟨b, u, hp, rfl⟩
  · rfl
  · exact (modeCompare_inputs u b).trans (fifoPop_inputs hp)

theorem seqStep_inputs {answer : Bool} {d : WriteDraw} {s t : State} (he : s.seqReady = true)
    (h : seqStep answer d s = .next t) : t.inputs = s.inputs := by
  rcases seqStep_cases he h with ⟨-, -, rfl⟩ | ⟨-, rfl⟩ | ⟨-, rfl⟩ | ⟨-, -, hr⟩
  · exact openStep_inputs s answer
  · exact sendStartStep_inputs s d
  · exact sendQueryStep_inputs s d
  · exact readModeStep_inputs hr

theorem tmrStep_inputs {s t : State} (he : s.tmrReady = true) (h : tmrStep s = .next t) : t.inputs = s.inputs := by
  rcases tmrStep_cases he h with ⟨-, ⟨-, -, rfl⟩ | ⟨-, -, rfl⟩⟩ <;> rfl

/-- Every step, of whichever agent, keeps the reset inputs. -/
theorem step_inputs {s t : State} (h : step s = .next t) : t.inputs = s.inputs := by
  rw [← advance_inputs s]
  cases step_cases h with
  | hold he ht => rw [ht]
  | command c i hm he hd hx => exact (exec_inputs hx).trans (present_inputs _ c)
  | illegal c why hm he hd ht => exact ht ▸ rfl
  | rx hm he hx => exact rxStep_inputs hx
  | own hm ho he hx => exact ownStep_inputs hx
  | read hm hr he hx => exact readStep_inputs hx
  | conn hm hx => exact connDone_inputs hx
  | seq answer d hm he hx => exact seqStep_inputs he hx
  | cancel hm he ht => exact ht ▸ enterClosed_inputs _ _
  | tmr hm he hx => exact tmrStep_inputs he hx

/-- Settles O24: a step keeps the reset inputs, and CONFIG is read off the parameters. -/
theorem parametersNeverChange : Obligations.ParametersNeverChange := by
  intro s t h
  have hin : t.inputs = s.inputs := step_inputs h
  exact ⟨congrArg Prod.fst hin, congrArg Prod.snd hin, configWord_of_inputs hin⟩

end Sys2Proof.Machine

/-! The FIFO invariant (10_state.md R26): the two operations that move the ring, an accept (40_fifo_ops.md R112) and a
POP of the oldest byte (R118), keep it, and so does every step. -/

namespace Sys2Proof.Machine

/-- An accept at a FIFO that is not full keeps the FIFO invariant. -/
theorem FifoInv.stored {s : State} (h : FifoInv s) (b : Byte) (hc : s.count.toNat < s.cfg.depth.toNat) :
    FifoInv (s.stored b) where
  depth_pos := h.depth_pos
  count_le := (count_add_one hc).trans_le hc
  head_lt := h.head_lt
  tail_eq := by
    show (ringNext s.tail s.cfg.depth).toNat = (s.head.toNat + (s.count + 1#16).toNat) % s.cfg.depth.toNat
    rw [ringNext_toNat h.depth_pos, h.tail_eq, count_add_one hc, Nat.mod_add_mod, Nat.add_assoc]
  mem_wf := Memory.write_wf s.tail.toNat b h.mem_wf
  mem_bound := by
    intro c hm
    rcases Memory.mem_write hm with rfl | hm
    · exact h.tail_lt
    · exact h.mem_bound c hm
  queue_length := by
    rw [queue_stored h b hc, List.length_append, h.queue_length]
    exact (count_add_one hc).symm

/-- A POP of the oldest byte keeps the FIFO invariant. -/
theorem FifoInv.taken {s : State} {b : Byte} {q : List Byte} (h : FifoInv s) (hq : s.queue = b :: q) :
    FifoInv (s.taken b) := by
  have hlen : q.length + 1 = s.count.toNat := by rw [← h.queue_length, hq, List.length_cons]
  have hne : s.count ≠ 0#16 := fun e => by simp [(queue_nil_iff h).2 e] at hq
  have hsub : (s.count - 1#16).toNat = q.length := by rw [count_sub_one hne, ← hlen, Nat.add_sub_cancel]
  exact {
    depth_pos := h.depth_pos
    count_le := by
      show (s.count - 1#16).toNat ≤ s.cfg.depth.toNat
      have := h.count_le
      omega
    head_lt := ringNext_lt h.depth_pos
    tail_eq := by
      show s.tail.toNat = ((ringNext s.head s.cfg.depth).toNat + (s.count - 1#16).toNat) % s.cfg.depth.toNat
      rw [ringNext_toNat h.depth_pos, hsub, h.tail_eq, ← hlen, Nat.mod_add_mod]
      congr 1
      omega
    mem_wf := h.mem_wf
    mem_bound := h.mem_bound
    queue_length := by rw [queue_taken h hq]; exact hsub.symm }

theorem FifoInv.fifoPop {s u : State} {b : Byte} (h : FifoInv s) (hp : s.fifoPop = .byte b u) : FifoInv u := by
  have hq : s.queue = b :: u.queue := fifoPop_byte_queue h hp
  obtain ⟨-, -, -, rfl⟩ := fifoPop_byte hp
  exact h.taken hq

/-- `push1` accepts only where a byte of storage is free (40_fifo_ops.md R111). -/
theorem count_lt_of_push1_accept {s : State} (h : s.push1 = .accept) : s.count.toNat < s.cfg.depth.toNat := by
  rcases push1_cases s with ⟨hp, -⟩ | ⟨-, ⟨-, hlt⟩ | ⟨-, ⟨hp, -⟩ | ⟨hp, -⟩⟩⟩
  · simp [hp] at h
  · exact hlt
  · simp [hp] at h
  · simp [hp] at h

/-- Settles O18: a step leaves the FIFO alone, accepts a byte into a free place, or pops the oldest byte. -/
theorem stepKeepsFifoInvariant : Obligations.StepKeepsFifoInvariant := by
  intro s t hinv hstep
  rcases step_fifoView hstep with hsame | ⟨-, hacc, r, b, -, -, hstored⟩ | ⟨b, u, hpop, htaken⟩
  · exact hinv.of_fifoView hsame
  · exact (hinv.stored b (count_lt_of_push1_accept hacc)).of_fifoView hstored
  · exact (hinv.fifoPop hpop).of_fifoView htaken

end Sys2Proof.Machine

/-! The fields of STATUS and CONFIG (10_state.md R30, R31). Both words are put together by `++` from the high end down,
so a field is found by passing over the parts below it. -/

namespace Sys2Proof.Machine

theorem statusWord_flags (s : State) :
    s.statusWord.getLsbD 0 = s.empty ∧ s.statusWord.getLsbD 1 = s.full ∧ s.statusWord.getLsbD 2 = s.fclosed ∧
      s.statusWord.getLsbD 3 = s.ovfBit ∧ s.statusWord.getLsbD 10 = s.debug ∧
      s.statusWord.getLsbD 11 = s.cancelReq ∧ s.statusWord.getLsbD 12 = s.handle ∧
      s.statusWord.getLsbD 15 = s.rdBusy := by
  unfold State.statusWord
  simp only [BitVec.getLsbD_append]
  simp

theorem statusWord_link (s : State) : s.statusWord.extractLsb' 4 3 = s.link.code := by
  unfold State.statusWord
  iterate 4 rw [BitVec.extractLsb'_append_eq_of_le (by decide)]
  rw [BitVec.extractLsb'_append_eq_of_add_le (by decide)]
  exact BitVec.extractLsb'_eq_self

theorem statusWord_phase (s : State) : s.statusWord.extractLsb' 7 3 = s.phase.code := by
  unfold State.statusWord
  iterate 5 rw [BitVec.extractLsb'_append_eq_of_le (by decide)]
  rw [BitVec.extractLsb'_append_eq_of_add_le (by decide)]
  exact BitVec.extractLsb'_eq_self

theorem statusWord_attempt (s : State) : s.statusWord.extractLsb' 13 2 = s.attempt := by
  unfold State.statusWord
  iterate 9 rw [BitVec.extractLsb'_append_eq_of_le (by decide)]
  rw [BitVec.extractLsb'_append_eq_of_add_le (by decide)]
  exact BitVec.extractLsb'_eq_self

theorem statusWord_count (s : State) : s.statusWord.extractLsb' 16 16 = s.count := by
  unfold State.statusWord
  iterate 11 rw [BitVec.extractLsb'_append_eq_of_le (by decide)]
  exact BitVec.extractLsb'_eq_self

theorem configWord_depth (s : State) : s.configWord.extractLsb' 0 16 = s.cfg.depth := by
  unfold State.configWord
  rw [BitVec.extractLsb'_append_eq_of_add_le (by decide)]
  exact BitVec.extractLsb'_eq_self

theorem configWord_policy (s : State) : s.configWord.getLsbD 16 = true ↔ s.cfg.policy = .drop := by
  unfold State.configWord
  simp only [BitVec.getLsbD_append]
  cases s.cfg.policy <;> simp [policyCode]

theorem configWord_maxCmd (s : State) : s.configWord.extractLsb' 17 5 = s.cfg.maxCmd := by
  unfold State.configWord
  iterate 2 rw [BitVec.extractLsb'_append_eq_of_le (by decide)]
  rw [BitVec.extractLsb'_append_eq_of_add_le (by decide)]
  exact BitVec.extractLsb'_eq_self

theorem configWord_maxAttempts (s : State) : s.configWord.extractLsb' 22 2 = s.cfg.maxAttempts := by
  unfold State.configWord
  iterate 3 rw [BitVec.extractLsb'_append_eq_of_le (by decide)]
  rw [BitVec.extractLsb'_append_eq_of_add_le (by decide)]
  exact BitVec.extractLsb'_eq_self

theorem configWord_reserved (s : State) : s.configWord.extractLsb' 24 8 = 0#8 := by
  unfold State.configWord
  iterate 4 rw [BitVec.extractLsb'_append_eq_of_le (by decide)]
  exact BitVec.extractLsb'_eq_self

theorem empty_iff (s : State) : s.empty = true ↔ s.count = 0#16 := by simp [State.empty]

theorem full_iff (s : State) : s.full = true ↔ s.count = s.cfg.depth := by simp [State.full]

/-- OVF is hardwired to 0 under BLOCK (10_state.md R28). -/
theorem ovfBit_eq (s : State) : s.ovfBit = if s.cfg.policy = .block then false else s.ovf := by
  unfold State.ovfBit
  cases s.cfg.policy <;> simp

/-- A FIFO of at least one byte is not full at reset. -/
theorem resetWith_full {p : Params} (h : p.wf = true) (debug : Bool) : (State.resetWith p debug).full = false := by
  have hd : p.depth ≠ 0#16 := by
    simp only [Params.wf, Bool.and_eq_true, bne_iff_ne] at h
    obtain ⟨⟨⟨⟨hd, -⟩, -⟩, -⟩, -⟩ := h
    exact hd
  simpa [State.full, State.resetWith] using hd.symm

theorem resetWith_ovfBit (p : Params) (debug : Bool) : (State.resetWith p debug).ovfBit = false := by
  simp [State.ovfBit, State.resetWith]

theorem resetWith_statusWord {p : Params} (h : p.wf = true) (debug : Bool) :
    (State.resetWith p debug).statusWord = if debug then 0x00000401#32 else 0x00000001#32 := by
  rw [State.statusWord, resetWith_full h, resetWith_ovfBit]
  cases debug <;> simp [State.resetWith, State.empty, State.rdBusy, Phase.code, LinkState.code]

/-- Settles O28: one lemma for each field, the code tables by evaluation, and STATUS at reset. -/
theorem statusAndConfigFields : Obligations.StatusAndConfigFields := by
  refine ⟨fun s => ?_, fun s => ?_, ⟨rfl, rfl⟩, fun p debug h => resetWith_statusWord h debug⟩
  · obtain ⟨hempty, hfull, hclosed, hovf, hdebug, hcancel, hhandle, hbusy⟩ := statusWord_flags s
    exact ⟨hempty ▸ empty_iff s, hfull ▸ full_iff s, hclosed, hovf.trans (ovfBit_eq s), statusWord_link s,
      statusWord_phase s, hdebug, hcancel, hhandle, statusWord_attempt s, hbusy, statusWord_count s⟩
  · exact ⟨configWord_depth s, configWord_policy s, configWord_maxCmd s, configWord_maxAttempts s,
      configWord_reserved s⟩

end Sys2Proof.Machine

/-! The invariant of the Link Controller (10_state.md R23, R29, R37): what each operation needs to keep it, then the
commands, the agents' steps and the step. -/

namespace Sys2Proof.Machine

/-! ### Link state and phase -/

theorem connecting_iff (s : State) : s.connecting = true ↔ s.link = .opening ∨ s.link = .handshaking := by
  simp [State.connecting]

/-- In a legal pair the phase says whether the link is OPENING (10_state.md R23). -/
theorem opening_iff_of_legal {l : LinkState} {p : Phase} (h : (l, p) ∈ legalPairs) :
    l = .opening ↔ p = .openPort ∨ p = .cooldown := by
  revert h
  cases l <;> cases p <;> decide

/-- In a legal pair the phase says whether the link is HANDSHAKING (10_state.md R23). -/
theorem handshaking_iff_of_legal {l : LinkState} {p : Phase} (h : (l, p) ∈ legalPairs) :
    l = .handshaking ↔ p = .sendStart ∨ p = .sendQuery ∨ p = .delay ∨ p = .readMode := by
  revert h
  cases l <;> cases p <;> decide

theorem LinkInv.opening_iff {s : State} (h : LinkInv s) :
    s.link = .opening ↔ s.phase = .openPort ∨ s.phase = .cooldown := opening_iff_of_legal h.pair

theorem LinkInv.handshaking_iff {s : State} (h : LinkInv s) :
    s.link = .handshaking ↔
      s.phase = .sendStart ∨ s.phase = .sendQuery ∨ s.phase = .delay ∨ s.phase = .readMode :=
  handshaking_iff_of_legal h.pair

/-- While no connect is in progress SEQ is idle. -/
theorem LinkInv.idle {s : State} (h : LinkInv s) (hc : s.connecting = false) : s.phase = .idle := by
  have hpair := h.pair
  revert hc hpair
  unfold State.connecting
  cases s.link <;> cases s.phase <;> decide

/-- While a connect is in progress no typed read is in flight. -/
theorem LinkInv.rd_none {s : State} (h : LinkInv s) (hc : s.connecting = true) : s.rd = none := by
  cases hr : s.rd with
  | none => rfl
  | some r =>
    have ha : s.typedAllowed = true := h.read (by simp [hr])
    rcases (connecting_iff s).1 hc with hl | hl <;> simp [State.typedAllowed, hl] at ha

/-- An enabled phase step of SEQ is part of a connect in progress. -/
theorem LinkInv.connecting_of_seqReady {s : State} (h : LinkInv s) (he : s.seqReady = true) : s.connecting = true := by
  by_contra hc
  simp [State.seqReady, h.idle (by simpa using hc)] at he

/-! ### The view -/

/-- The fields the Link Controller's invariant is about. -/
def State.linkView (s : State) : Params × LinkState × Phase × Option TmrKind × Bool × Bool × BitVec 2 ×
    Option Issuer × Option Rsp × List TEvent × Option ReadRec :=
  (s.cfg, s.link, s.phase, s.tmr, s.handle, s.cancelReq, s.attempt, s.connCaller, s.connResult, s.tev, s.rd)

theorem LinkInv.of_linkView {s t : State} (h : LinkInv s) (e : t.linkView = s.linkView) : LinkInv t := by
  cases s
  cases t
  simp only [State.linkView, Prod.mk.injEq] at e
  obtain ⟨rfl, rfl, rfl, rfl, rfl, rfl, rfl, rfl, rfl, rfl, rfl⟩ := e
  exact { h with }

theorem finishBurst_linkView (s : State) (r : RxRec) : (s.finishBurst r).linkView = s.linkView := by
  simp [State.linkView]

theorem fifoPop_linkView {s u : State} {b : Byte} (h : s.fifoPop = .byte b u) : u.linkView = s.linkView := by
  obtain ⟨-, -, -, rfl⟩ := fifoPop_byte h
  rfl

/-! ### The operations -/

/-- A response that reports a failed connect, as it is posted for the held CONNECT (41_link_control.md R145, R152,
R154, R159). -/
def Rsp.reportsFailure (r : Rsp) : Prop :=
  r.val = 0#32 ∧ (r.st = .transportOpen ∨ ∃ c, r.st = .connectionFailed c)

theorem connectionFailed_reportsFailure (c : Cause) : (errorRsp (.connectionFailed c)).reportsFailure :=
  ⟨rfl, .inr ⟨c, rfl⟩⟩

theorem transportOpen_reportsFailure : (errorRsp .transportOpen).reportsFailure := ⟨rfl, .inl rfl⟩

/-- CONNECT from UNOPENED (41_link_control.md R141). -/
theorem LinkInv.connect {s : State} (h : LinkInv s) (hl : s.link = .unopened) (a : Issuer) :
    LinkInv
      { s with
        link := .opening
        phase := .openPort
        attempt := 1#2
        polls := 0
        cancelReq := false
        connCaller := some a
        connResult := none } := by
  have hidle : s.phase = .idle := h.idle (by simp [State.connecting, hl])
  exact { h with
    pair := by simp [legalPairs]
    tmr_poll := by simp [h.tmr_poll, hidle]
    tmr_cooldown := by simp [h.tmr_cooldown, hidle]
    handle := by simp [h.handle, hl]
    cancel := by simp
    attempt_le := h.attempts_pos
    attempt_pos := by simp
    attempt_cooldown := by simp
    caller := by simp
    result := by simp
    result_ready := by simp
    result_closed := by simp
    unopened := by simp
    read := fun hr => by simpa [State.typedAllowed, hl] using h.read hr }

/-- Entering CLOSED (41_link_control.md R155) needs little of the state it is entered from, so it serves where the
handle or the history has changed just before. -/
theorem linkInv_enterClosed {s : State} {res : Option Rsp} (hpos : 0 < s.cfg.maxAttempts.toNat)
    (hle : s.attempt.toNat ≤ s.cfg.maxAttempts.toNat)
    (hresult : s.connResult.isSome = true → s.connCaller.isSome = true)
    (hres : ∀ r, res = some r → r.reportsFailure) : LinkInv (s.enterClosed res) where
  pair := by simp [legalPairs]
  tmr_poll := by simp
  tmr_cooldown := by simp
  handle := by simp
  cancel := by simp
  attempts_pos := by simpa using hpos
  attempt_le := by simpa using hle
  attempt_pos := by simp [State.connecting]
  attempt_cooldown := by simp
  caller := by simp [State.connecting]
  result := by
    cases hc : s.connCaller with
    | some a => simp [hc]
    | none => simpa [hc] using hresult
  result_ready := by simp
  result_closed := by
    intro _ r hr
    cases hc : s.connCaller with
    | some a => exact hres r (by simpa [hc] using hr)
    | none =>
      have hposted : s.connResult = some r := by simpa [hc] using hr
      simp [hposted, hc] at hresult
  unopened := by simp
  read := by simp [State.typedAllowed]

theorem LinkInv.enterClosed {s : State} {res : Option Rsp} (h : LinkInv s)
    (hres : ∀ r, res = some r → r.reportsFailure) : LinkInv (s.enterClosed res) :=
  linkInv_enterClosed h.attempts_pos h.attempt_le h.result hres

/-- The held CONNECT is answered (41_link_control.md R143): no connect is in progress then. -/
theorem LinkInv.deliver {s : State} (h : LinkInv s) (hr : s.connResult.isSome = true) :
    LinkInv { s with connCaller := none, connResult := none } :=
  { h with
    caller := fun hc => by simp [(h.caller hc).2] at hr
    result := by simp
    result_ready := by simp
    result_closed := by simp
    unopened := fun hl => ⟨rfl, (h.unopened hl).2⟩ }

theorem LinkInv.cancelPending {s : State} (h : LinkInv s) (hc : s.connecting = true) :
    LinkInv { s with cancelReq := true } :=
  { h with cancel := fun _ => hc }

theorem LinkInv.withRead {s : State} (h : LinkInv s) (ha : s.typedAllowed = true) (r : Option ReadRec) :
    LinkInv { s with rd := r } :=
  { h with read := fun _ => ha }

theorem LinkInv.txWrite {s : State} (h : LinkInv s) (hl : s.link ≠ .unopened) (bs : List Byte) (d : WriteDraw) :
    LinkInv (s.txWrite bs d) :=
  { h with unopened := fun hu => absurd hu hl }

/-- A failed attempt (41_link_control.md R151, R152): a cooldown while attempts are left, else CLOSED. -/
theorem LinkInv.attemptFail {s : State} (h : LinkInv s) (hc : s.connecting = true) : LinkInv s.attemptFail := by
  rw [attemptFail_eq]
  split
  · rename_i hlt
    exact { h with
      pair := by simp [legalPairs]
      tmr_poll := by simp
      tmr_cooldown := by simp
      handle := by simp
      cancel := fun _ => rfl
      attempt_pos := fun _ => h.attempt_pos (.inl hc)
      attempt_cooldown := fun _ => hlt
      caller := fun _ => h.caller hc
      result_ready := by simp
      result_closed := by simp
      unopened := by simp
      read := fun hr => by simp [h.rd_none hc] at hr }
  · exact linkInv_enterClosed h.attempts_pos h.attempt_le h.result
      (by rintro r ⟨⟩; exact connectionFailed_reportsFailure _)

/-- The OPEN step (41_link_control.md R145). -/
theorem LinkInv.openStep {s : State} (h : LinkInv s) (hl : s.link = .opening) (hp : s.phase = .openPort)
    (answer : Bool) : LinkInv (s.openStep answer) := by
  have hc : s.connecting = true := (connecting_iff s).2 (.inl hl)
  cases answer with
  | true =>
    rw [openStep_true]
    exact { h with
      pair := by simp [legalPairs]
      tmr_poll := by simp [h.tmr_poll, hp]
      tmr_cooldown := by simp [h.tmr_cooldown, hp]
      handle := by simp
      cancel := fun _ => rfl
      attempt_pos := fun _ => h.attempt_pos (.inl hc)
      attempt_cooldown := by simp
      caller := fun _ => h.caller hc
      result_ready := by simp
      result_closed := by simp
      unopened := by simp
      read := fun hr => by simp [h.rd_none hc] at hr }
  | false =>
    rw [openStep_false]
    exact linkInv_enterClosed h.attempts_pos h.attempt_le h.result
      (by rintro r ⟨⟩; exact transportOpen_reportsFailure)

/-- Inside HANDSHAKING the sequencer goes on to SEND_QUERY from a phase that waits for no delay (41_link_control.md
R146, R150). -/
theorem LinkInv.toSendQuery {s : State} (h : LinkInv s) (hl : s.link = .handshaking) (hp : s.phase ≠ .delay) :
    LinkInv { s with phase := .sendQuery } := by
  have hcool : s.phase ≠ .cooldown := fun e => by simp [h.opening_iff.2 (.inr e)] at hl
  exact { h with
    pair := by simp [legalPairs, hl]
    tmr_poll := by simp [h.tmr_poll, hp]
    tmr_cooldown := by simp [h.tmr_cooldown, hcool]
    attempt_cooldown := by simp }

/-- The mode query is out and the poll delay armed (41_link_control.md R147). -/
theorem LinkInv.toDelay {s : State} (h : LinkInv s) (hl : s.link = .handshaking) (n : Nat) :
    LinkInv { s with polls := n, phase := .delay, tmr := some .poll } :=
  { h with
    pair := by simp [legalPairs, hl]
    tmr_poll := by simp
    tmr_cooldown := by simp
    attempt_cooldown := by simp }

/-- The connect succeeds (41_link_control.md R150). -/
theorem LinkInv.toReady {s : State} (h : LinkInv s) (hl : s.link = .handshaking) (hp : s.phase ≠ .delay)
    (hn : s.cancelReq = false) : LinkInv { s with link := .ready, phase := .idle, connResult := some okRsp } := by
  have hc : s.connecting = true := (connecting_iff s).2 (.inr hl)
  have hcool : s.phase ≠ .cooldown := fun e => by simp [h.opening_iff.2 (.inr e)] at hl
  exact { h with
    pair := by simp [legalPairs]
    tmr_poll := by simp [h.tmr_poll, hp]
    tmr_cooldown := by simp [h.tmr_cooldown, hcool]
    handle := by simp [h.handle, hl]
    cancel := by simp [hn]
    attempt_pos := fun _ => h.attempt_pos (.inl hc)
    attempt_cooldown := by simp
    caller := by simp [State.connecting]
    result := fun _ => (h.caller hc).1
    result_ready := by simp
    result_closed := by simp
    unopened := by simp
    read := fun _ => rfl }

theorem LinkInv.modeCompare {s : State} (h : LinkInv s) (hl : s.link = .handshaking) (hp : s.phase ≠ .delay)
    (hn : s.cancelReq = false) (b : Byte) : LinkInv (s.modeCompare b) := by
  unfold State.modeCompare
  split
  · exact h.toReady hl hp hn
  · exact h.toSendQuery hl hp

theorem LinkInv.sendStartStep {s : State} (h : LinkInv s) (hp : s.phase = .sendStart) (d : WriteDraw) :
    LinkInv (s.sendStartStep d) := by
  have hl : s.link = .handshaking := h.handshaking_iff.2 (.inl hp)
  have hsent := h.txWrite (by simp [hl]) [s.cfg.startOp] d
  cases d with
  | ok => exact hsent.toSendQuery hl (by simp [hp])
  | fail k => exact hsent.attemptFail ((connecting_iff s).2 (.inr hl))

theorem LinkInv.sendQueryStep {s : State} (h : LinkInv s) (hp : s.phase = .sendQuery) (d : WriteDraw) :
    LinkInv (s.sendQueryStep d) := by
  have hl : s.link = .handshaking := h.handshaking_iff.2 (.inr (.inl hp))
  have hsent := h.txWrite (by simp [hl]) [s.cfg.queryOp, s.cfg.modePkt] d
  cases d with
  | ok => exact hsent.toDelay hl _
  | fail k => exact hsent.attemptFail ((connecting_iff s).2 (.inr hl))

/-- The poll delay ends (41_link_control.md R148). -/
theorem LinkInv.pollEnd {s : State} (h : LinkInv s) (hp : s.phase = .delay) :
    LinkInv { s with tmr := none, phase := .readMode } := by
  have hl : s.link = .handshaking := h.handshaking_iff.2 (.inr (.inr (.inl hp)))
  exact { h with
    pair := by simp [legalPairs, hl]
    tmr_poll := by simp
    tmr_cooldown := by simp
    attempt_cooldown := by simp }

/-- The cooldown ends and the next attempt starts (41_link_control.md R153). An attempt is left, so its two-bit number
does not wrap. -/
theorem LinkInv.cooldownEnd {s : State} (h : LinkInv s) (hp : s.phase = .cooldown) :
    LinkInv { s with tmr := none, attempt := s.attempt + 1#2, phase := .openPort } := by
  have hl : s.link = .opening := h.opening_iff.2 (.inr hp)
  have hlt := h.attempt_cooldown hp
  have hnext : (s.attempt + 1#2).toNat = s.attempt.toNat + 1 := by
    have := s.cfg.maxAttempts.isLt
    rw [BitVec.toNat_add, BitVec.toNat_ofNat]
    omega
  exact { h with
    pair := by simp [legalPairs, hl]
    tmr_poll := by simp
    tmr_cooldown := by simp
    attempt_le := hnext.trans_le hlt
    attempt_pos := fun _ => hnext ▸ Nat.succ_pos _
    attempt_cooldown := by simp
    unopened := by simp [hl] }

/-! ### The commands and the agents' steps -/

theorem exec_linkInv {i : Instr} {s t : State} (h : LinkInv s) (hx : exec i s = .next t) : LinkInv t := by
  cases exec_cases hx with
  | respond i a r ht => exact ht ▸ h.of_linkView rfl
  | refuse i ht => exact ht ▸ h.of_linkView rfl
  | same i ht => exact ht ▸ h
  | burst i bs hb hr hi ht => exact ht ▸ h.of_linkView rfl
  | pop b u hp ht => exact ht ▸ h.of_linkView (fifoPop_linkView hp :)
  | popHold hp ht => exact ht ▸ h.of_linkView rfl
  | fclose ht => exact ht ▸ h.of_linkView rfl
  | connect hl ht => exact ht ▸ h.connect hl s.cur.agent
  | close res hl hr ht =>
    have hclosed : LinkInv (s.enterClosed res) := h.enterClosed (by
      rintro r rfl
      rcases hr with ⟨-, hr⟩ | ⟨-, hr⟩ <;> cases hr
      exact connectionFailed_reportsFailure _)
    exact ht ▸ hclosed.of_linkView rfl
  | cancel hc ht => exact ht ▸ (h.cancelPending hc).of_linkView rfl
  | read i k hi ha hr ht => exact ht ▸ h.withRead ha _
  | write i bs d r hl ht => exact ht ▸ (h.txWrite (by simp [hl]) bs d).of_linkView rfl

theorem rxStep_linkInv {s t : State} (h : LinkInv s) (hx : rxStep s = .next t) : LinkInv t := by
  rcases rxStep_cases hx with ⟨rfl, -⟩ | ⟨r, b, -, -, ⟨-, rfl⟩ | ⟨-, rfl⟩ | ⟨-, rfl⟩⟩
  · exact h
  all_goals exact h.of_linkView (finishBurst_linkView _ _)

theorem ownStep_linkInv {s t : State} (h : LinkInv s) (hx : ownStep s = .next t) : LinkInv t := by
  rcases ownStep_cases hx with rfl | ⟨a, -, ⟨b, u, hp, rfl⟩ | ⟨-, rfl⟩⟩
  · exact h
  · exact h.of_linkView (fifoPop_linkView hp :)
  · exact h.of_linkView rfl

theorem readStep_linkInv {s t : State} (h : LinkInv s) (hx : readStep s = .next t) : LinkInv t := by
  rcases readStep_cases hx with rfl | ⟨r, hr, hcase⟩
  · exact h
  · have hread : ∀ slot, LinkInv { s with rd := slot } := h.withRead (h.read (by simp [hr]))
    rcases hcase with ⟨-, rfl⟩ | ⟨b, u, hp, hv⟩
    · exact (hread none).of_linkView rfl
    · obtain ⟨-, -, -, rfl⟩ := fifoPop_byte hp
      rcases hv with ⟨v, -, rfl⟩ | ⟨-, rfl⟩
      · exact (hread none).of_linkView rfl
      · exact (hread _).of_linkView rfl

theorem connDone_linkInv {s t : State} (h : LinkInv s) (hx : connDone s = .next t) : LinkInv t := by
  rcases connDone_cases hx with rfl | ⟨a, r, -, hr, rfl⟩
  · exact h
  · exact (h.deliver (by simp [hr])).of_linkView rfl

theorem LinkInv.readModeStep {s t : State} (h : LinkInv s) (hp : s.phase = .readMode) (hn : s.cancelReq = false)
    (hx : s.readModeStep = .next t) : LinkInv t := by
  rcases readModeStep_cases hx with rfl | ⟨b, u, hpop, rfl⟩
  · exact h
  · have hl : s.link = .handshaking := h.handshaking_iff.2 (.inr (.inr (.inr hp)))
    have hu : LinkInv u := h.of_linkView (fifoPop_linkView hpop)
    obtain ⟨-, -, -, rfl⟩ := fifoPop_byte hpop
    exact hu.modeCompare hl (by simp [State.taken, hp]) hn b

theorem seqStep_linkInv {answer : Bool} {d : WriteDraw} {s t : State} (h : LinkInv s) (he : s.seqReady = true)
    (hx : seqStep answer d s = .next t) : LinkInv t := by
  rcases seqStep_cases he hx with ⟨hp, hl, rfl⟩ | ⟨hp, rfl⟩ | ⟨hp, rfl⟩ | ⟨hp, hn, hr⟩
  · exact h.openStep hl hp answer
  · exact h.sendStartStep hp d
  · exact h.sendQueryStep hp d
  · exact h.readModeStep hp hn hr

theorem tmrStep_linkInv {s t : State} (h : LinkInv s) (he : s.tmrReady = true) (hx : tmrStep s = .next t) :
    LinkInv t := by
  rcases tmrStep_cases he hx with ⟨-, ⟨hp, -, rfl⟩ | ⟨hp, -, rfl⟩⟩
  · exact h.pollEnd hp
  · exact h.cooldownEnd hp

/-- Every step, of whichever agent, keeps the invariant of the Link Controller. -/
theorem step_linkInv {s t : State} (h : LinkInv s) (hstep : step s = .next t) : LinkInv t := by
  have hadv : LinkInv s.advance := h.of_linkView rfl
  cases step_cases hstep with
  | hold he ht => exact ht ▸ hadv
  | command c i hm he hd hx =>
    have hpres : LinkInv (s.advance.present c) := hadv.of_linkView rfl
    exact exec_linkInv hpres hx
  | illegal c why hm he hd ht => exact ht ▸ hadv.of_linkView rfl
  | rx hm he hx => exact rxStep_linkInv hadv hx
  | own hm ho he hx => exact ownStep_linkInv hadv hx
  | read hm hr he hx => exact readStep_linkInv hadv hx
  | conn hm hx => exact connDone_linkInv hadv hx
  | seq answer d hm he hx => exact seqStep_linkInv hadv he hx
  | cancel hm he ht =>
    exact ht ▸ hadv.enterClosed (by rintro r ⟨⟩; exact connectionFailed_reportsFailure _)
  | tmr hm he hx => exact tmrStep_linkInv hadv he hx

end Sys2Proof.Machine

/-! The roles (60_exceptions.md R233): which commands an agent's port lets through, then what keeps `RoleInv`. -/

namespace Sys2Proof.Machine

/-! ### The issuer of a command -/

/-- A word decodes only at the port of its command (30_encoding.md R83, R85). -/
theorem decode_command_port {p : Port} {w : Half} {i : Instr} (h : decode p w = .command i) : p = i.port := by
  obtain ⟨r, hrow, rfl, -, rfl⟩ := decode_command_iff.1 h
  unfold rowOf at hrow
  split at hrow <;> cases hrow <;> rfl

/-- What the agent in the operand carriers has to be for `i`: the OWN port is an outside issuer's in the stand-alone
FIFO alone (log 5); at the APP port stands an existing APP agent of the whole block, or HOST with CLOSE or CANCEL
(30_encoding.md R83). -/
structure RightIssuer (i : Instr) (s : State) : Prop where
  own : i.port = .own → s.cfg.standalone = true
  app : i.port = .app → s.cfg.standalone = false
  agent : i.port = .app → (i = .close ∨ i = .cancel) ∨ ∃ k, k < s.cfg.nApp ∧ s.cur.agent = .app k

/-- HOST's two words are CLOSE and CANCEL. -/
theorem decode_of_hostMayIssue {w : Half} {i : Instr} (h : hostMayIssue w = true) (hd : decode .app w = .command i) :
    i = .close ∨ i = .cancel := by
  simp only [hostMayIssue, Bool.or_eq_true, beq_iff_eq] at h
  have hclose : decode .app (encode .close) = .command .close := by decide
  have hcancel : decode .app (encode .cancel) = .command .cancel := by decide
  rcases h with rfl | rfl
  · exact .inl (Decoded.command.inj (hd.symm.trans hclose))
  · exact .inr (Decoded.command.inj (hd.symm.trans hcancel))

/-- An agent that may issue is the right issuer of the command its word decodes to. -/
theorem rightIssuer_of_canIssue {s : State} {c : Cmd} {i : Instr} (he : s.canIssue c = true)
    (hd : decode c.agent.port c.cw = .command i) : RightIssuer i (s.present c) := by
  have hport : c.agent.port = i.port := decode_command_port hd
  unfold State.canIssue at he
  cases ha : c.agent with
  | rx =>
    have hrx : i.port = .rx := by simpa [ha, Issuer.port] using hport.symm
    constructor <;> simp [hrx]
  | own =>
    have hown : i.port = .own := by simpa [ha, Issuer.port] using hport.symm
    simp only [ha, Bool.and_eq_true] at he
    exact ⟨fun _ => he.1, by simp [hown], by simp [hown]⟩
  | app k =>
    have happ : i.port = .app := by simpa [ha, Issuer.port] using hport.symm
    simp only [ha, Bool.and_eq_true, Bool.not_eq_true', decide_eq_true_eq] at he
    obtain ⟨⟨hwhole, hk⟩, -⟩ := he
    exact ⟨by simp [happ], fun _ => hwhole, fun _ => .inr ⟨k, hk, ha⟩⟩
  | host =>
    have happ : i.port = .app := by simpa [ha, Issuer.port] using hport.symm
    simp only [ha, Bool.and_eq_true, Bool.not_eq_true'] at he
    obtain ⟨hwhole, hword⟩ := he
    rw [ha] at hd
    exact ⟨by simp [happ], fun _ => hwhole, fun _ => .inl (decode_of_hostMayIssue hword hd)⟩

/-- CLOSE and CANCEL start no typed read. -/
theorem exec_rd_of_host {i : Instr} {s t : State} (hi : i = .close ∨ i = .cancel) (h : exec i s = .next t) :
    t.rd = s.rd := by
  rcases hi with rfl | rfl
  · simp only [exec, execClose] at h
    split at h <;> (cases h; simp)
  · simp only [exec, execCancel] at h
    split at h <;> (cases h; rfl)

/-! ### The view -/

/-- The fields the roles are about. -/
def State.roleView (s : State) : Params × Bool × LinkState × Option Issuer × Option Issuer × Option ReadRec :=
  (s.cfg, s.fclosed, s.link, s.ownPop, s.connCaller, s.rd)

theorem RoleInv.of_roleView {s t : State} (h : RoleInv s) (e : t.roleView = s.roleView) : RoleInv t := by
  cases s
  cases t
  simp only [State.roleView, Prod.mk.injEq] at e
  obtain ⟨rfl, rfl, rfl, rfl, rfl, rfl⟩ := e
  exact { h with }

theorem finishBurst_roleView (s : State) (r : RxRec) : (s.finishBurst r).roleView = s.roleView := by
  simp [State.roleView]

theorem fifoPop_roleView {s u : State} {b : Byte} (h : s.fifoPop = .byte b u) : u.roleView = s.roleView := by
  obtain ⟨-, -, -, rfl⟩ := fifoPop_byte h
  rfl

/-! ### The operations -/

/-- Link traffic is of the whole block. -/
theorem RoleInv.whole {s : State} (h : RoleInv s) (hc : s.connecting = true) : s.cfg.standalone = false := by
  by_contra hs
  have hl := (h.standalone (by simpa using hs)).1
  simp [State.connecting, hl] at hc

/-- While a connect is in progress the FIFO is open. -/
theorem RoleInv.fifo_open {s : State} (h : RoleInv s) (hc : s.connecting = true) : s.fclosed = false := by
  by_contra hf
  have hl := (h.closed_iff (h.whole hc)).1 (by simpa using hf)
  simp [State.connecting, hl] at hc

theorem RoleInv.enterClosed {s : State} (h : RoleInv s) (hw : s.cfg.standalone = false) (res : Option Rsp) :
    RoleInv (s.enterClosed res) where
  closed_iff := by simp
  own_none := by simpa using h.own_none
  standalone := by simp [hw]
  caller_app := by simpa using h.caller_app
  reader_app := by simpa using h.reader_app

/-- A connect in progress goes on to a link state that is not CLOSED. -/
theorem RoleInv.relink {s : State} (h : RoleInv s) (hc : s.connecting = true) {l : LinkState} (hl : l ≠ .closed) :
    RoleInv { s with link := l } :=
  { h with
    closed_iff := by simp [h.fifo_open hc, hl]
    standalone := by simp [h.whole hc] }

theorem RoleInv.connect {s : State} (h : RoleInv s) (hl : s.link = .unopened) (hw : s.cfg.standalone = false) {k : Nat}
    (hk : k < s.cfg.nApp) : RoleInv { s with link := .opening, connCaller := some (.app k) } :=
  { h with
    closed_iff := fun _ => by simp [h.closed_iff hw, hl]
    standalone := by simp [hw]
    caller_app := by
      rintro a ⟨⟩
      exact ⟨k, hk, rfl⟩ }

theorem RoleInv.deliver {s : State} (h : RoleInv s) : RoleInv { s with connCaller := none, connResult := none } :=
  { h with caller_app := by simp }

theorem RoleInv.closeFifo {s : State} (h : RoleInv s) (hs : s.cfg.standalone = true) : RoleInv s.closeFifo :=
  { h with closed_iff := by simp [hs] }

theorem RoleInv.withOwnPop {s : State} (h : RoleInv s) {a : Option Issuer}
    (ha : s.cfg.standalone = false → a = none) : RoleInv { s with ownPop := a } :=
  { h with own_none := ha }

/-- A typed read that starts or goes on is one of an existing APP agent of the whole block. -/
theorem RoleInv.withRead {s : State} (h : RoleInv s) {slot : Option ReadRec}
    (hs : s.cfg.standalone = true → slot = none)
    (hr : ∀ r, slot = some r → ∃ k, k < s.cfg.nApp ∧ r.agent = .app k) : RoleInv { s with rd := slot } :=
  { h with
    standalone := fun hw => ⟨(h.standalone hw).1, hs hw⟩
    reader_app := hr }

theorem RoleInv.endRead {s : State} (h : RoleInv s) : RoleInv { s with rd := none } :=
  h.withRead (fun _ => rfl) (by simp)

/-- A typed read in flight goes on with its own agent (42_typed_read.md R180). -/
theorem RoleInv.continueRead {s : State} {r : ReadRec} (h : RoleInv s) (hr : s.rd = some r) (hi : Option Byte) :
    RoleInv { s with rd := some { r with hi := hi } } := by
  refine h.withRead (fun hs => ?_) ?_
  · have hnone := (h.standalone hs).2
    simp [hr] at hnone
  · rintro _ ⟨⟩
    exact h.reader_app r hr

theorem RoleInv.attemptFail {s : State} (h : RoleInv s) (hc : s.connecting = true) : RoleInv s.attemptFail := by
  rw [attemptFail_eq]
  split
  · exact (h.relink hc (l := .opening) (by decide)).of_roleView rfl
  · have hreleased : RoleInv { s with tev := s.tev ++ [TEvent.close], handle := false } := h.of_roleView rfl
    exact hreleased.enterClosed (h.whole hc) _

theorem RoleInv.openStep {s : State} (h : RoleInv s) (hc : s.connecting = true) (answer : Bool) :
    RoleInv (s.openStep answer) := by
  cases answer with
  | true =>
    rw [openStep_true]
    exact (h.relink hc (l := .handshaking) (by decide)).of_roleView rfl
  | false =>
    have hopened : RoleInv { s with tev := s.tev ++ [TEvent.opened false] } := h.of_roleView rfl
    rw [openStep_false]
    exact hopened.enterClosed (h.whole hc) _

theorem RoleInv.sendStartStep {s : State} (h : RoleInv s) (hc : s.connecting = true) (d : WriteDraw) :
    RoleInv (s.sendStartStep d) := by
  cases d with
  | ok => exact h.of_roleView rfl
  | fail k =>
    have hsent : RoleInv (s.txWrite [s.cfg.startOp] (.fail k)) := h.of_roleView rfl
    exact hsent.attemptFail hc

theorem RoleInv.sendQueryStep {s : State} (h : RoleInv s) (hc : s.connecting = true) (d : WriteDraw) :
    RoleInv (s.sendQueryStep d) := by
  cases d with
  | ok => exact h.of_roleView rfl
  | fail k =>
    have hsent : RoleInv (s.txWrite [s.cfg.queryOp, s.cfg.modePkt] (.fail k)) := h.of_roleView rfl
    exact hsent.attemptFail hc

theorem RoleInv.modeCompare {s : State} (h : RoleInv s) (hc : s.connecting = true) (b : Byte) :
    RoleInv (s.modeCompare b) := by
  unfold State.modeCompare
  split
  · exact (h.relink hc (l := .ready) (by decide)).of_roleView rfl
  · exact h.of_roleView rfl

/-! ### The commands and the agents' steps -/

theorem exec_roleInv {i : Instr} {s t : State} (h : RoleInv s) (hi : RightIssuer i s) (hx : exec i s = .next t) :
    RoleInv t := by
  cases exec_cases hx with
  | respond i a r ht => exact ht ▸ h.of_roleView rfl
  | refuse i ht => exact ht ▸ h.of_roleView rfl
  | same i ht => exact ht ▸ h
  | burst i bs hb hr _ ht => exact ht ▸ h.of_roleView rfl
  | pop b u hp ht => exact ht ▸ h.of_roleView (fifoPop_roleView hp :)
  | popHold hp ht => exact ht ▸ h.withOwnPop (by simp [hi.own rfl])
  | fclose ht => exact ht ▸ (h.closeFifo (hi.own rfl)).of_roleView rfl
  | connect hl ht =>
    obtain ⟨k, hk, ha⟩ := (hi.agent rfl).resolve_left (by simp)
    exact ht ▸ (h.connect hl (hi.app rfl) hk).of_roleView (by simp [State.roleView, ha])
  | close res hl hr ht => exact ht ▸ (h.enterClosed (hi.app rfl) res).of_roleView rfl
  | cancel hc ht => exact ht ▸ h.of_roleView rfl
  | read i k hp ha hr ht =>
    rcases hi.agent hp with hhost | ⟨n, hn, hagent⟩
    · have hrd := exec_rd_of_host hhost hx
      simp [ht, hr] at hrd
    · exact ht ▸ h.withRead (by simp [hi.app hp]) (by rintro _ ⟨⟩; exact ⟨n, hn, hagent⟩)
  | write i bs d r hl ht => exact ht ▸ h.of_roleView rfl

theorem rxStep_roleInv {s t : State} (h : RoleInv s) (hx : rxStep s = .next t) : RoleInv t := by
  rcases rxStep_cases hx with ⟨rfl, -⟩ | ⟨r, b, -, -, ⟨-, rfl⟩ | ⟨-, rfl⟩ | ⟨-, rfl⟩⟩
  · exact h
  all_goals exact h.of_roleView (finishBurst_roleView _ _)

theorem ownStep_roleInv {s t : State} (h : RoleInv s) (hx : ownStep s = .next t) : RoleInv t := by
  have hfree : RoleInv { s with ownPop := none } := h.withOwnPop fun _ => rfl
  rcases ownStep_cases hx with rfl | ⟨a, -, ⟨b, u, hp, rfl⟩ | ⟨-, rfl⟩⟩
  · exact h
  · obtain ⟨-, -, -, rfl⟩ := fifoPop_byte hp
    exact hfree.of_roleView rfl
  · exact hfree.of_roleView rfl

theorem readStep_roleInv {s t : State} (h : RoleInv s) (hx : readStep s = .next t) : RoleInv t := by
  rcases readStep_cases hx with rfl | ⟨r, hr, ⟨-, rfl⟩ | ⟨b, u, hp, hv⟩⟩
  · exact h
  · exact h.endRead.of_roleView rfl
  · obtain ⟨-, -, -, rfl⟩ := fifoPop_byte hp
    rcases hv with ⟨v, -, rfl⟩ | ⟨-, rfl⟩
    · exact h.endRead.of_roleView rfl
    · exact (h.continueRead hr (some b)).of_roleView rfl

theorem connDone_roleInv {s t : State} (h : RoleInv s) (hx : connDone s = .next t) : RoleInv t := by
  rcases connDone_cases hx with rfl | ⟨a, r, -, -, rfl⟩
  · exact h
  · exact h.deliver.of_roleView rfl

theorem seqStep_roleInv {answer : Bool} {d : WriteDraw} {s t : State} (hl : LinkInv s) (h : RoleInv s)
    (he : s.seqReady = true) (hx : seqStep answer d s = .next t) : RoleInv t := by
  have hc : s.connecting = true := hl.connecting_of_seqReady he
  rcases seqStep_cases he hx with ⟨-, -, rfl⟩ | ⟨-, rfl⟩ | ⟨-, rfl⟩ | ⟨-, -, hr⟩
  · exact h.openStep hc answer
  · exact h.sendStartStep hc d
  · exact h.sendQueryStep hc d
  · rcases readModeStep_cases hr with rfl | ⟨b, u, hp, rfl⟩
    · exact h
    · obtain ⟨-, -, -, rfl⟩ := fifoPop_byte hp
      have hu : RoleInv (s.taken b) := h.of_roleView rfl
      exact hu.modeCompare hc b

theorem tmrStep_roleInv {s t : State} (h : RoleInv s) (he : s.tmrReady = true) (hx : tmrStep s = .next t) :
    RoleInv t := by
  rcases tmrStep_cases he hx with ⟨-, ⟨-, -, rfl⟩ | ⟨-, -, rfl⟩⟩ <;> exact h.of_roleView rfl

/-- Every step, of whichever agent, keeps the roles; SEQ's needs the legal pairs, by which it moves
in a connect only. -/
theorem step_roleInv {s t : State} (hl : LinkInv s) (h : RoleInv s) (hstep : step s = .next t) : RoleInv t := by
  have hadv : RoleInv s.advance := h.of_roleView rfl
  cases step_cases hstep with
  | hold he ht => exact ht ▸ hadv
  | command c i hm he hd hx =>
    have hpres : RoleInv (s.advance.present c) := hadv.of_roleView rfl
    exact exec_roleInv hpres (rightIssuer_of_canIssue he hd) hx
  | illegal c why hm he hd ht => exact ht ▸ hadv.of_roleView rfl
  | rx hm he hx => exact rxStep_roleInv hadv hx
  | own hm ho he hx => exact ownStep_roleInv hadv hx
  | read hm hr he hx => exact readStep_roleInv hadv hx
  | conn hm hx => exact connDone_roleInv hadv hx
  | seq answer d hm he hx =>
    have hladv : LinkInv s.advance := hl.of_linkView rfl
    exact seqStep_roleInv hladv hadv he hx
  | cancel hm he ht =>
    simp only [State.cancelReady, Bool.and_eq_true] at he
    exact ht ▸ hadv.enterClosed (hadv.whole he.2) _
  | tmr hm he hx => exact tmrStep_roleInv hadv he hx

/-- Settles O21: the Link Controller's invariant is kept on its own, and with it the roles. -/
theorem stepKeepsLinkInvariant : Obligations.StepKeepsLinkInvariant := fun _ _ hl hr hstep =>
  ⟨step_linkInv hl hstep, step_roleInv hl hr hstep⟩

end Sys2Proof.Machine

/-! The sticky marks (10_state.md R27, R28, R36) and the last sentence of 41_link_control.md R160. -/

namespace Sys2Proof.Machine

/-- `t` has every mark that `s` has, and is CLOSED if `s` is. -/
structure MarksKept (s t : State) : Prop where
  fclosed : s.fclosed = true → t.fclosed = true
  ovf : s.ovf = true → t.ovf = true
  refused : s.refused = true → t.refused = true
  link : s.link = .closed → t.link = .closed

/-- The fields the marks are read from. -/
def State.marksView (s : State) : Bool × Bool × Bool × LinkState := (s.fclosed, s.ovf, s.refused, s.link)

theorem MarksKept.of_marksView {s t : State} (e : t.marksView = s.marksView) : MarksKept s t := by
  simp only [State.marksView, Prod.mk.injEq] at e
  obtain ⟨hf, ho, hr, hl⟩ := e
  exact ⟨hf.trans, ho.trans, hr.trans, hl.trans⟩

theorem MarksKept.trans {s t u : State} (h : MarksKept s t) (h' : MarksKept t u) : MarksKept s u :=
  ⟨h'.fclosed ∘ h.fclosed, h'.ovf ∘ h.ovf, h'.refused ∘ h.refused, h'.link ∘ h.link⟩

theorem fifoPop_marksView {s u : State} {b : Byte} (h : s.fifoPop = .byte b u) : u.marksView = s.marksView := by
  obtain ⟨-, -, -, rfl⟩ := fifoPop_byte h
  rfl

theorem finishBurst_marksView (s : State) (r : RxRec) : (s.finishBurst r).marksView = s.marksView := by
  simp [State.marksView]

/-- While a connect is in progress only the marks proper have to be kept. -/
theorem MarksKept.of_connecting {s t : State} (hc : s.connecting = true) (hf : t.fclosed = s.fclosed)
    (ho : t.ovf = s.ovf) (hr : t.refused = s.refused) : MarksKept s t :=
  ⟨hf.trans, ho.trans, hr.trans, fun hl => by simp [State.connecting, hl] at hc⟩

theorem marksKept_enterClosed (s : State) (res : Option Rsp) : MarksKept s (s.enterClosed res) := by
  constructor <;> simp

theorem marksKept_dropByte (s : State) (r : RxRec) : MarksKept s (s.dropByte r) := by
  constructor <;> simp [State.dropByte]

theorem marksKept_attemptFail {s : State} (hc : s.connecting = true) : MarksKept s s.attemptFail := by
  rw [attemptFail_eq]
  split
  · exact .of_connecting hc rfl rfl rfl
  · have hreleased : MarksKept s { s with tev := s.tev ++ [TEvent.close], handle := false } := .of_marksView rfl
    exact hreleased.trans (marksKept_enterClosed _ _)

theorem marksKept_openStep {s : State} (hc : s.connecting = true) (answer : Bool) :
    MarksKept s (s.openStep answer) := by
  cases answer with
  | true => exact .of_connecting hc rfl rfl rfl
  | false =>
    have hopened : MarksKept s { s with tev := s.tev ++ [TEvent.opened false] } := .of_marksView rfl
    exact hopened.trans (marksKept_enterClosed _ _)

theorem marksKept_sendStartStep {s : State} (hc : s.connecting = true) (d : WriteDraw) :
    MarksKept s (s.sendStartStep d) := by
  cases d with
  | ok => exact .of_marksView rfl
  | fail k =>
    have hsent : MarksKept s (s.txWrite [s.cfg.startOp] (.fail k)) := .of_marksView rfl
    exact hsent.trans (marksKept_attemptFail hc)

theorem marksKept_sendQueryStep {s : State} (hc : s.connecting = true) (d : WriteDraw) :
    MarksKept s (s.sendQueryStep d) := by
  cases d with
  | ok => exact .of_marksView rfl
  | fail k =>
    have hsent : MarksKept s (s.txWrite [s.cfg.queryOp, s.cfg.modePkt] (.fail k)) := .of_marksView rfl
    exact hsent.trans (marksKept_attemptFail hc)

theorem marksKept_modeCompare {s : State} (hc : s.connecting = true) (b : Byte) : MarksKept s (s.modeCompare b) := by
  unfold State.modeCompare
  split <;> exact .of_connecting hc rfl rfl rfl

theorem exec_marksKept {i : Instr} {s t : State} (hx : exec i s = .next t) : MarksKept s t := by
  cases exec_cases hx with
  | refuse i ht => exact ht ▸ ⟨id, id, fun _ => rfl, id⟩
  | fclose ht => exact ht ▸ ⟨fun _ => rfl, id, id, id⟩
  | connect hl ht => exact ht ▸ ⟨id, id, id, fun hc => by simp [hl] at hc⟩
  | close res hl hr ht => exact ht ▸ (marksKept_enterClosed s res).trans (.of_marksView rfl)
  | pop b u hp ht => exact ht ▸ .of_marksView (fifoPop_marksView hp :)
  | respond | same | burst | popHold | cancel | read | write => subst t; exact .of_marksView rfl

theorem rxStep_marksKept {s t : State} (hx : rxStep s = .next t) : MarksKept s t := by
  rcases rxStep_cases hx with ⟨rfl, -⟩ | ⟨r, b, -, -, ⟨-, rfl⟩ | ⟨-, rfl⟩ | ⟨-, rfl⟩⟩
  · exact .of_marksView rfl
  · exact .of_marksView (finishBurst_marksView _ _)
  · exact marksKept_dropByte s r
  · exact .of_marksView (finishBurst_marksView _ _)

theorem ownStep_marksView {s t : State} (hx : ownStep s = .next t) : t.marksView = s.marksView := by
  rcases ownStep_cases hx with rfl | ⟨a, -, ⟨b, u, hp, rfl⟩ | ⟨-, rfl⟩⟩
  · rfl
  · exact (fifoPop_marksView hp :)
  · rfl

theorem readStep_marksView {s t : State} (hx : readStep s = .next t) : t.marksView = s.marksView := by
  rcases readStep_cases hx with rfl | ⟨r, -, ⟨-, rfl⟩ | ⟨b, u, hp, ⟨v, -, rfl⟩ | ⟨-, rfl⟩⟩⟩
  · rfl
  · rfl
  all_goals exact (fifoPop_marksView hp :)

theorem connDone_marksView {s t : State} (hx : connDone s = .next t) : t.marksView = s.marksView := by
  rcases connDone_cases hx with rfl | ⟨a, r, -, -, rfl⟩ <;> rfl

theorem tmrStep_marksView {s t : State} (he : s.tmrReady = true) (hx : tmrStep s = .next t) :
    t.marksView = s.marksView := by
  rcases tmrStep_cases he hx with ⟨-, ⟨-, -, rfl⟩ | ⟨-, -, rfl⟩⟩ <;> rfl

theorem seqStep_marksKept {answer : Bool} {d : WriteDraw} {s t : State} (hc : s.connecting = true)
    (he : s.seqReady = true) (hx : seqStep answer d s = .next t) : MarksKept s t := by
  rcases seqStep_cases he hx with ⟨-, -, rfl⟩ | ⟨-, rfl⟩ | ⟨-, rfl⟩ | ⟨-, -, hr⟩
  · exact marksKept_openStep hc answer
  · exact marksKept_sendStartStep hc d
  · exact marksKept_sendQueryStep hc d
  · rcases readModeStep_cases hr with rfl | ⟨b, u, hp, rfl⟩
    · exact .of_marksView rfl
    · have hu : MarksKept s u := .of_marksView (fifoPop_marksView hp)
      obtain ⟨-, -, -, rfl⟩ := fifoPop_byte hp
      exact hu.trans (marksKept_modeCompare (s := s.taken b) hc b)

/-- No step takes a mark back; the legal pairs shut SEQ out of CLOSED. -/
theorem step_marksKept {s t : State} (hl : LinkInv s) (hstep : step s = .next t) : MarksKept s t := by
  have hadv : MarksKept s s.advance := .of_marksView rfl
  refine hadv.trans ?_
  cases step_cases hstep with
  | hold he ht => exact ht ▸ .of_marksView rfl
  | command c i hm he hd hx =>
    have hpres : MarksKept s.advance (s.advance.present c) := .of_marksView rfl
    exact hpres.trans (exec_marksKept hx)
  | illegal c why hm he hd ht => exact ht ▸ .of_marksView rfl
  | rx hm he hx => exact rxStep_marksKept hx
  | own hm ho he hx => exact .of_marksView (ownStep_marksView hx)
  | read hm hr he hx => exact .of_marksView (readStep_marksView hx)
  | conn hm hx => exact .of_marksView (connDone_marksView hx)
  | seq answer d hm he hx =>
    have hladv : LinkInv s.advance := hl.of_linkView rfl
    exact seqStep_marksKept (hladv.connecting_of_seqReady he) he hx
  | cancel hm he ht => exact ht ▸ marksKept_enterClosed _ _
  | tmr hm he hx => exact .of_marksView (tmrStep_marksView he hx)

/-- In CLOSED no transport handle is present. -/
theorem LinkInv.handle_of_closed {s : State} (h : LinkInv s) (hl : s.link = .closed) : s.handle = false := by
  by_contra hh
  have hopen := h.handle.1 (by simpa using hh)
  simp [hl] at hopen

/-- Settles O25: the marks and CLOSED are kept, and the invariant of the state reached says that the handle is
released. -/
theorem marksAreSticky : Obligations.MarksAreSticky := by
  intro s t hl hstep
  have hkept : MarksKept s t := step_marksKept hl hstep
  refine ⟨hkept.fclosed, hkept.ovf, hkept.refused, fun hc => ?_⟩
  exact ⟨hkept.link hc, (step_linkInv hl hstep).handle_of_closed (hkept.link hc)⟩

end Sys2Proof.Machine

/-! The order of the bytes (20_memory.md R61): the two operations that move the ring keep A = P ++ Q. -/

namespace Sys2Proof.Machine

/-- The order law reads the FIFO's view alone. -/
theorem FifoOrder.of_fifoView {s t : State} (h : FifoOrder s) (e : t.fifoView = s.fifoView) : FifoOrder t := by
  obtain ⟨hqueue, hacc, hpop⟩ := histories_of_fifoView e
  rw [FifoOrder, hacc, hpop, hqueue]
  exact h

/-- An accepted byte joins A and, as the youngest byte, Q (40_fifo_ops.md R112). -/
theorem FifoOrder.stored {s : State} (h : FifoOrder s) (hinv : FifoInv s) (b : Byte)
    (hc : s.count.toNat < s.cfg.depth.toNat) : FifoOrder (s.stored b) := by
  show s.accepted ++ [b] = s.popped ++ (s.stored b).queue
  rw [queue_stored hinv b hc, ← List.append_assoc, ← show s.accepted = s.popped ++ s.queue from h]

/-- A popped byte leaves Q as its oldest byte and joins P (40_fifo_ops.md R118). -/
theorem FifoOrder.fifoPop {s u : State} {b : Byte} (h : FifoOrder s) (hinv : FifoInv s)
    (hp : s.fifoPop = .byte b u) : FifoOrder u := by
  have hqueue : s.queue = b :: u.queue := fifoPop_byte_queue hinv hp
  obtain ⟨-, -, -, rfl⟩ := fifoPop_byte hp
  show s.accepted = s.popped ++ [b] ++ (s.taken b).queue
  rw [List.append_assoc, List.singleton_append, ← hqueue]
  exact h

/-- The pending bytes stand in the record of the burst in flight (10_state.md R33). -/
theorem pending_eq_rem {s : State} {r : RxRec} (h : s.rx = some r) : s.pending = r.rem := by
  rw [State.pending, h]

/-- Settles O19: a step leaves A, P and Q alone, accepts the byte RX pushes, or pops the oldest byte. -/
theorem stepKeepsFifoOrder : Obligations.StepKeepsFifoOrder := by
  intro s t hinv hord hstep
  rcases step_fifoView hstep with hsame | ⟨hm, hacc, r, b, hr, hb, hstored⟩ | ⟨b, u, hpop, htaken⟩
  · obtain ⟨-, hA, hP⟩ := histories_of_fifoView hsame
    exact ⟨hord.of_fifoView hsame, .inl hA, .inl hP⟩
  · obtain ⟨-, hA, hP⟩ := histories_of_fifoView hstored
    have hpushed : s.pending.head? = some b := by rw [pending_eq_rem hr, hb]
    have hkept : FifoOrder (s.stored b) := hord.stored hinv b (count_lt_of_push1_accept hacc)
    exact ⟨hkept.of_fifoView hstored, .inr ⟨b, hm, hpushed, hA⟩, .inl hP⟩
  · have holdest : s.queue.head? = some b := by rw [fifoPop_byte_queue hinv hpop, List.head?_cons]
    have hu : FifoOrder u := hord.fifoPop hinv hpop
    obtain ⟨-, -, -, rfl⟩ := fifoPop_byte hpop
    obtain ⟨-, hA, hP⟩ := histories_of_fifoView htaken
    exact ⟨hu.of_fifoView htaken, .inl hA, .inr ⟨b, holdest, hP⟩⟩

end Sys2Proof.Machine

/-! The arrival order (20_memory.md R62) and the burst in flight (10_state.md R28, R33). A step leaves them alone,
starts a burst, or is a micro-step of RX; for each of these it is said what becomes of the burst's record, and of the
accepted bytes with those still to be pushed. -/

namespace Sys2Proof.Machine

/-! ### What leaves the burst alone -/

/-- The fields that only RX writes. -/
def State.burstView (s : State) : Params × Option RxRec × Bool × List Byte × List Byte :=
  (s.cfg, s.rx, s.ovf, s.instream, s.accepted)

/-- `t` has the burst, the overflow mark and the histories of `s`; a closed FIFO stays closed, and the scratch area
keeps its size. -/
structure BurstKept (s t : State) : Prop where
  view : t.burstView = s.burstView
  closed : s.fclosed = true → t.fclosed = true
  scratch : s.scratch.length = s.cfg.scratchSize → t.scratch.length = t.cfg.scratchSize

theorem BurstKept.refl (s : State) : BurstKept s s := ⟨rfl, id, id⟩

theorem BurstKept.trans {s t u : State} (h : BurstKept s t) (h' : BurstKept t u) : BurstKept s u :=
  ⟨h'.view.trans h.view, h'.closed ∘ h.closed, h'.scratch ∘ h.scratch⟩

theorem BurstKept.fields {s t : State} (h : BurstKept s t) :
    t.cfg = s.cfg ∧ t.rx = s.rx ∧ t.ovf = s.ovf ∧ t.instream = s.instream ∧ t.accepted = s.accepted := by
  simpa only [State.burstView, Prod.mk.injEq] using h.view

theorem burstKept_advance (s : State) : BurstKept s s.advance := ⟨rfl, id, id⟩

theorem burstKept_enterClosed (s : State) (res : Option Rsp) : BurstKept s (s.enterClosed res) :=
  ⟨by simp [State.burstView], by simp, by simp⟩

theorem burstKept_fifoPop {s u : State} {b : Byte} (h : s.fifoPop = .byte b u) : BurstKept s u := by
  obtain ⟨-, -, -, rfl⟩ := fifoPop_byte h
  exact ⟨rfl, id, id⟩

/-- Loading a write's bytes keeps the size of the scratch area (43_typed_write.md R206, log 9). -/
theorem burstKept_txWrite (s : State) (bs : List Byte) (d : WriteDraw) : BurstKept s (s.txWrite bs d) where
  view := rfl
  closed := id
  scratch h := by
    simp only [State.txWrite_scratch, State.txWrite_cfg, List.length_take, List.length_append, List.length_drop]
    omega

theorem burstKept_attemptFail (s : State) : BurstKept s s.attemptFail := by
  rw [attemptFail_eq]
  split
  · exact ⟨rfl, id, id⟩
  · have hreleased : BurstKept s { s with tev := s.tev ++ [TEvent.close], handle := false } := ⟨rfl, id, id⟩
    exact hreleased.trans (burstKept_enterClosed _ _)

theorem burstKept_openStep (s : State) (answer : Bool) : BurstKept s (s.openStep answer) := by
  cases answer with
  | true => exact ⟨rfl, id, id⟩
  | false =>
    have hopened : BurstKept s { s with tev := s.tev ++ [TEvent.opened false] } := ⟨rfl, id, id⟩
    exact hopened.trans (burstKept_enterClosed _ _)

theorem burstKept_sendStartStep (s : State) (d : WriteDraw) : BurstKept s (s.sendStartStep d) := by
  have hsent := burstKept_txWrite s [s.cfg.startOp] d
  cases d with
  | ok => exact hsent.trans ⟨rfl, id, id⟩
  | fail k => exact hsent.trans (burstKept_attemptFail _)

theorem burstKept_sendQueryStep (s : State) (d : WriteDraw) : BurstKept s (s.sendQueryStep d) := by
  have hsent := burstKept_txWrite s [s.cfg.queryOp, s.cfg.modePkt] d
  cases d with
  | ok => exact hsent.trans ⟨rfl, id, id⟩
  | fail k => exact hsent.trans (burstKept_attemptFail _)

theorem burstKept_modeCompare (s : State) (b : Byte) : BurstKept s (s.modeCompare b) := by
  unfold State.modeCompare
  split <;> exact ⟨rfl, id, id⟩

theorem ownStep_burstKept {s t : State} (hx : ownStep s = .next t) : BurstKept s t := by
  rcases ownStep_cases hx with rfl | ⟨a, -, ⟨b, u, hp, rfl⟩ | ⟨-, rfl⟩⟩
  · exact .refl _
  · exact (burstKept_fifoPop hp).trans ⟨rfl, id, id⟩
  · exact ⟨rfl, id, id⟩

theorem readStep_burstKept {s t : State} (hx : readStep s = .next t) : BurstKept s t := by
  rcases readStep_cases hx with rfl | ⟨r, -, ⟨-, rfl⟩ | ⟨b, u, hp, ⟨v, -, rfl⟩ | ⟨-, rfl⟩⟩⟩
  · exact .refl _
  · exact ⟨rfl, id, id⟩
  all_goals exact (burstKept_fifoPop hp).trans ⟨rfl, id, id⟩

theorem connDone_burstKept {s t : State} (hx : connDone s = .next t) : BurstKept s t := by
  rcases connDone_cases hx with rfl | ⟨a, r, -, -, rfl⟩ <;> exact ⟨rfl, id, id⟩

theorem seqStep_burstKept {answer : Bool} {d : WriteDraw} {s t : State} (he : s.seqReady = true)
    (hx : seqStep answer d s = .next t) : BurstKept s t := by
  rcases seqStep_cases he hx with ⟨-, -, rfl⟩ | ⟨-, rfl⟩ | ⟨-, rfl⟩ | ⟨-, -, hr⟩
  · exact burstKept_openStep s answer
  · exact burstKept_sendStartStep s d
  · exact burstKept_sendQueryStep s d
  · rcases readModeStep_cases hr with rfl | ⟨b, u, hp, rfl⟩
    · exact .refl _
    · exact (burstKept_fifoPop hp).trans (burstKept_modeCompare u b)

theorem tmrStep_burstKept {s t : State} (he : s.tmrReady = true) (hx : tmrStep s = .next t) : BurstKept s t := by
  rcases tmrStep_cases he hx with ⟨-, ⟨-, -, rfl⟩ | ⟨-, -, rfl⟩⟩ <;> exact ⟨rfl, id, id⟩

/-! ### What a step does to the burst -/

/-- The operands of a decoded command fit their fields (30_encoding.md R82, R85). -/
theorem decode_command_wf {p : Port} {w : Half} {i : Instr} (h : decode p w = .command i) : i.wf = true := by
  obtain ⟨r, hrow, -, -, rfl⟩ := decode_command_iff.1 h
  have hn : nField w < 4096 := (w.extractLsb' 0 12).isLt
  have hlen : lenField w < 32 := (w.extractLsb' 0 5).isLt
  unfold rowOf at hrow
  split at hrow <;> cases hrow <;> simp [Instr.wf, hn, hlen]

/-- A command leaves the burst alone or starts one of at most 4095 bytes (40_fifo_ops.md R115, R116). -/
theorem exec_burst {i : Instr} {s t : State} (hw : i.wf = true) (hx : exec i s = .next t) :
    BurstKept s t ∨
      ∃ bs, bs ≠ [] ∧ bs.length ≤ 4095 ∧ s.rx = none ∧
        t = { s with rx := some { rem := bs, acc := 0, st := .ok }, instream := s.instream ++ bs } := by
  cases exec_cases hx with
  | burst i bs hb hr hi ht =>
    refine .inr ⟨bs, hb, ?_, hr, ht⟩
    rcases hi with ⟨d, -, rfl⟩ | ⟨rfl, -⟩
    · simp
    · simp only [Instr.wf, decide_eq_true_eq] at hw
      omega
  | pop b u hp ht => exact .inl (ht ▸ (burstKept_fifoPop hp).trans ⟨rfl, id, id⟩)
  | fclose ht => exact .inl (ht ▸ ⟨rfl, fun _ => rfl, id⟩)
  | close res hl hres ht => exact .inl (ht ▸ (burstKept_enterClosed s res).trans ⟨rfl, id, id⟩)
  | write i bs d r hl ht => exact .inl (ht ▸ (burstKept_txWrite s bs d).trans ⟨rfl, id, id⟩)
  | respond | refuse | same | popHold | connect | cancel | read => subst t; exact .inl ⟨rfl, id, id⟩

/-- Everything a step from `s` to `t` can do to the burst in flight. The micro-steps of RX run in the state with the
move taken off the schedule. -/
inductive BurstStep (s t : State) : Prop where
  | kept (h : BurstKept s t)
  | started (bs : List Byte) (hne : bs ≠ []) (hlen : bs.length ≤ 4095) (hrx : s.rx = none)
      (h : BurstKept { s with rx := some { rem := bs, acc := 0, st := .ok }, instream := s.instream ++ bs } t)
  | pushed (r : RxRec) (b : Byte) (hm : s.nextMove = .rxStep) (hrx : s.rx = some r) (hb : r.rem = b :: r.rem.tail)
      (h : (s.push1 = .accept ∧
          t = (s.advance.stored b).finishBurst { r with rem := r.rem.tail, acc := r.acc + 1 }) ∨
        (s.push1 = .dropped ∧ t = s.advance.dropByte r) ∨
        (s.push1 = .rejectClosed ∧ t = s.advance.rejectBurst r))

theorem step_burst {s t : State} (hstep : step s = .next t) : BurstStep s t := by
  have hadv : BurstKept s s.advance := burstKept_advance s
  cases step_cases hstep with
  | hold he ht => exact .kept (ht ▸ hadv)
  | command c i hm he hd hx =>
    have hpres : BurstKept s (s.advance.present c) := ⟨rfl, id, id⟩
    rcases exec_burst (decode_command_wf hd) hx with hkept | ⟨bs, hne, hlen, hrx, ht⟩
    · exact .kept (hpres.trans hkept)
    · exact .started bs hne hlen hrx (ht ▸ ⟨rfl, id, id⟩)
  | illegal c why hm he hd ht => exact .kept (ht ▸ ⟨rfl, id, id⟩)
  | rx hm he hx =>
    rcases rxStep_cases hx with ⟨rfl, -⟩ | ⟨r, b, hrx, hb, hpush⟩
    · exact .kept hadv
    · exact .pushed r b hm hrx (List.eq_cons_of_mem_head? hb) hpush
  | own hm ho he hx => exact .kept (hadv.trans (ownStep_burstKept hx))
  | read hm hr he hx => exact .kept (hadv.trans (readStep_burstKept hx))
  | conn hm hx => exact .kept (hadv.trans (connDone_burstKept hx))
  | seq answer d hm he hx => exact .kept (hadv.trans (seqStep_burstKept he hx))
  | cancel hm he ht => exact .kept (ht ▸ hadv.trans (burstKept_enterClosed _ _))
  | tmr hm he hx => exact .kept (hadv.trans (tmrStep_burstKept he hx))

/-! ### The conditions of a loss (40_fifo_ops.md R111) -/

theorem full_of_push1_dropped {s : State} (h : s.push1 = .dropped) :
    s.fclosed = false ∧ s.cfg.policy = .drop ∧ s.cfg.depth.toNat ≤ s.count.toNat := by
  rcases push1_cases s with ⟨hp, -⟩ | ⟨hopen, ⟨hp, -⟩ | ⟨hfull, ⟨-, hdrop⟩ | ⟨hp, -⟩⟩⟩
  · simp [hp] at h
  · simp [hp] at h
  · exact ⟨hopen, hdrop, hfull⟩
  · simp [hp] at h

theorem closed_of_push1_rejectClosed {s : State} (h : s.push1 = .rejectClosed) : s.fclosed = true := by
  rcases push1_cases s with ⟨-, hclosed⟩ | ⟨-, ⟨hp, -⟩ | ⟨-, ⟨hp, -⟩ | ⟨hp, -⟩⟩⟩
  · exact hclosed
  all_goals simp [hp] at h

/-! ### The burst in flight -/

theorem BurstInv.of_burstKept {s t : State} (h : BurstInv s) (hk : BurstKept s t) : BurstInv t := by
  obtain ⟨hcfg, hrx, hovf, -, -⟩ := hk.fields
  exact {
    rem_ne := by rw [hrx]; exact h.rem_ne
    bound := by rw [hrx]; exact h.bound
    open_st := by rw [hrx]; exact h.open_st
    overflow := by rw [hrx, hovf]; exact h.overflow
    ovf_block := by rw [hcfg, hovf]; exact h.ovf_block
    scratch_length := hk.scratch h.scratch_length }

/-- What `BurstInv` asks of the record of a burst, under the overflow mark `ovf`. -/
structure RxRec.Sound (ovf : Bool) (r : RxRec) : Prop where
  bound : r.acc + r.rem.length ≤ 4095
  open_st : r.st ≠ .channelClosed
  overflow : r.st = .overflow → ovf = true

theorem BurstInv.sound {s : State} {r : RxRec} (h : BurstInv s) (hr : s.rx = some r) : r.Sound s.ovf :=
  ⟨h.bound r hr, h.open_st r hr, h.overflow r hr⟩

/-- The record that moves on has to be sound only while bytes are left: without, the burst completes. -/
theorem BurstInv.finishBurst {s : State} {r : RxRec} (h : BurstInv s) (hr : r.rem ≠ [] → r.Sound s.ovf) :
    BurstInv (s.finishBurst r) := by
  have hsome : ∀ r', (s.finishBurst r).rx = some r' → r' = r ∧ r.rem ≠ [] := by
    intro r' h'
    rw [State.finishBurst_rx] at h'
    split at h'
    · cases h'
    · cases h'
      exact ⟨rfl, ‹_›⟩
  constructor
  case ovf_block => simpa using h.ovf_block
  case scratch_length => simpa using h.scratch_length
  all_goals
    intro r' h'
    obtain ⟨rfl, hne⟩ := hsome r' h'
  · exact hne
  · exact (hr hne).bound
  · exact (hr hne).open_st
  · simpa using (hr hne).overflow

theorem BurstInv.dropByte {s : State} {r : RxRec} (h : BurstInv s) (hr : s.rx = some r) (hp : s.cfg.policy = .drop) :
    BurstInv (s.dropByte r) := by
  have hmarked : BurstInv { s with ovf := true } :=
    { h with overflow := fun _ _ _ => rfl, ovf_block := by simp [hp] }
  obtain ⟨hbound, hopen, -⟩ := h.sound hr
  refine hmarked.finishBurst fun _ => ⟨?_, ?_, fun _ => rfl⟩
  · simp only [List.length_tail]
    omega
  · show (if r.st = RxStatus.ok then RxStatus.overflow else r.st) ≠ .channelClosed
    split
    · simp
    · exact hopen

theorem BurstStep.burstInv {s t : State} (h : BurstInv s) (hb : BurstStep s t) : BurstInv t := by
  have hadv : BurstInv s.advance := h.of_burstKept (burstKept_advance s)
  cases hb with
  | kept hk => exact h.of_burstKept hk
  | started bs hne hlen hrx hk =>
    refine BurstInv.of_burstKept ?_ hk
    constructor
    case ovf_block => exact h.ovf_block
    case scratch_length => exact h.scratch_length
    all_goals rintro r ⟨⟩
    · exact hne
    · simpa using hlen
    · simp
    · simp
  | pushed r b hm hrx hrem hpush =>
    obtain ⟨hbound, hopen, hovf⟩ := h.sound hrx
    rcases hpush with ⟨-, rfl⟩ | ⟨hp, rfl⟩ | ⟨-, rfl⟩
    · have hstored : BurstInv (s.advance.stored b) := { hadv with }
      refine hstored.finishBurst fun _ => ⟨?_, hopen, hovf⟩
      rw [hrem, List.length_cons] at hbound
      show r.acc + 1 + r.rem.tail.length ≤ 4095
      omega
    · obtain ⟨-, hdrop, -⟩ := full_of_push1_dropped hp
      exact hadv.dropByte hrx hdrop
    · exact hadv.finishBurst (by simp)

/-! ### A and the bytes still to be pushed -/

/-- What a step does to the accepted bytes and those still to be pushed: new bytes join them as they join the in-stream
and all are kept, or RX loses pending bytes, the whole rest of the burst at a closed FIFO or one byte under DROP at a
full one (20_memory.md R62). -/
inductive ArrivalStep (s t : State) : Prop where
  | kept (new : List Byte) (hi : t.instream = s.instream ++ new)
      (hbytes : t.accepted ++ t.pending = s.accepted ++ s.pending ++ new)
  | lost (hm : s.nextMove = .rxStep) (hi : t.instream = s.instream) (ha : t.accepted = s.accepted)
      (hloss : s.fclosed = true ∧ t.pending = [] ∨
        s.fclosed = false ∧ s.cfg.policy = .drop ∧ s.cfg.depth.toNat ≤ s.count.toNat ∧
          ∃ b, s.pending = b :: t.pending)

theorem pending_finishBurst (s : State) (r : RxRec) : (s.finishBurst r).pending = r.rem := by
  by_cases hr : r.rem = []
  · simp [State.pending, hr]
  · simp [State.pending, hr]

theorem BurstKept.pending {s t : State} (h : BurstKept s t) : t.pending = s.pending := by
  obtain ⟨-, hrx, -⟩ := h.fields
  rw [State.pending, State.pending, hrx]

theorem BurstStep.arrivalStep {s t : State} (h : BurstStep s t) : ArrivalStep s t := by
  cases h with
  | kept hk =>
    obtain ⟨-, -, -, hi, ha⟩ := hk.fields
    exact .kept [] (by simpa using hi) (by rw [ha, hk.pending, List.append_nil])
  | started bs hne hlen hrx hk =>
    obtain ⟨-, -, -, hi, ha⟩ := hk.fields
    have hnone : s.pending = [] := by rw [State.pending, hrx]
    exact .kept bs hi (by rw [ha, hk.pending, hnone, List.append_nil]; rfl)
  | pushed r b hm hrx hrem hpush =>
    have hpending : s.pending = b :: r.rem.tail := (pending_eq_rem hrx).trans hrem
    rcases hpush with ⟨-, rfl⟩ | ⟨hp, rfl⟩ | ⟨hp, rfl⟩
    · refine .kept [] (by simp [State.stored]) ?_
      rw [pending_finishBurst, hpending]
      simp [State.stored]
    · obtain ⟨hopen, hdrop, hfull⟩ := full_of_push1_dropped hp
      refine .lost hm (by simp [State.dropByte]) (by simp [State.dropByte]) (.inr ⟨hopen, hdrop, hfull, b, ?_⟩)
      rw [State.dropByte, pending_finishBurst, hpending]
    · have hclosed := closed_of_push1_rejectClosed hp
      refine .lost hm (by simp [State.rejectBurst]) (by simp [State.rejectBurst]) (.inl ⟨hclosed, ?_⟩)
      rw [State.rejectBurst, pending_finishBurst]

/-- No step opens a closed FIFO (10_state.md R27). -/
theorem BurstStep.closed {s t : State} (h : BurstStep s t) (hc : s.fclosed = true) : t.fclosed = true := by
  cases h with
  | kept hk => exact hk.closed hc
  | started bs hne hlen hrx hk => exact hk.closed hc
  | pushed r b hm hrx hrem hpush =>
    rcases hpush with ⟨-, rfl⟩ | ⟨-, rfl⟩ | ⟨-, rfl⟩
    · simpa [State.stored] using hc
    · simpa [State.dropByte] using hc
    · simpa [State.rejectBurst] using hc

/-- What is lost was pending, so the order of the rest stays that of the in-stream; under BLOCK a loss needs a closed
FIFO. -/
theorem ArrivalInv.of_arrivalStep {s t : State} (h : ArrivalInv s) (ht : ArrivalStep s t)
    (hpolicy : t.cfg.policy = s.cfg.policy) (hclosed : s.fclosed = true → t.fclosed = true) : ArrivalInv t := by
  have hopen : t.fclosed = false → s.fclosed = false := fun ho => by
    by_contra hc
    simp [hclosed (by simpa using hc)] at ho
  cases ht with
  | kept new hi hbytes =>
    constructor
    · rw [hbytes, hi]
      exact h.order.append (List.Sublist.refl new)
    · intro hb ho
      rw [hbytes, hi, h.complete (hpolicy ▸ hb) (hopen ho)]
  | lost hm hi ha hloss =>
    have hsub : t.pending.Sublist s.pending := by
      rcases hloss with ⟨-, hnil⟩ | ⟨-, -, -, b, hcons⟩
      · rw [hnil]
        exact List.nil_sublist _
      · rw [hcons]
        exact List.sublist_cons_self b _
    constructor
    · rw [ha, hi]
      exact ((List.Sublist.refl s.accepted).append hsub).trans h.order
    · intro hb ho
      rcases hloss with ⟨hc, -⟩ | ⟨-, hdrop, -⟩
      · simp [hopen ho] at hc
      · simp [← hpolicy, hb] at hdrop

/-- Settles O20: what a step does to the burst keeps its record sound, and what it does to the bytes keeps their
order. -/
theorem stepKeepsArrivalOrder : Obligations.StepKeepsArrivalOrder := by
  intro s t hburst harrival hstep
  have hb : BurstStep s t := step_burst hstep
  have hpolicy : t.cfg.policy = s.cfg.policy := congrArg (·.1.policy) (step_inputs hstep)
  refine ⟨hb.burstInv hburst, harrival.of_arrivalStep hb.arrivalStep hpolicy hb.closed, ?_⟩
  cases hb.arrivalStep with
  | kept new hi hbytes => exact ⟨new, hi, .inl hbytes⟩
  | lost hm hi ha hloss => exact ⟨[], by simpa using hi, .inr ⟨hm, rfl, ha, hloss⟩⟩

end Sys2Proof.Machine

/-! The delays (20_memory.md R66 (c)): while a delay goes on the cancel request is kept, and either the delay end or the
cancel step is enabled; each of the two ends the delay. -/

namespace Sys2Proof.Machine

/-- SEQ waits for TMR (41_link_control.md R148, R153). -/
def State.inDelay (s : State) : Prop := s.phase = .delay ∨ s.phase = .cooldown

theorem State.inDelay.not_idle {s : State} (h : s.inDelay) : s.phase ≠ .idle := by
  rcases h with hp | hp <;> simp [hp]

theorem State.inDelay.seqReady {s : State} (h : s.inDelay) : s.seqReady = false := by
  rcases h with hp | hp <;> simp [State.seqReady, hp]

/-- A delay is part of a connect in progress. -/
theorem LinkInv.connecting_of_inDelay {s : State} (h : LinkInv s) (hd : s.inDelay) : s.connecting = true := by
  by_contra hc
  exact hd.not_idle (h.idle (by simpa using hc))

/-- In a delay with a cancel pending the cancel step is enabled (41_link_control.md R159). -/
theorem LinkInv.cancelReady_of_inDelay {s : State} (h : LinkInv s) (hd : s.inDelay) (hc : s.cancelReq = true) :
    s.cancelReady = true := by
  simp [State.cancelReady, hc, h.connecting_of_inDelay hd]

/-- In a delay with no cancel pending the delay end is enabled (R148, R153): the timer is armed for it. -/
theorem LinkInv.tmrReady_of_inDelay {s : State} (h : LinkInv s) (hd : s.inDelay) (hc : s.cancelReq = false) :
    s.tmrReady = true := by
  rcases hd with hp | hp
  · simp [State.tmrReady, hc, hp, h.tmr_poll.2 hp]
  · simp [State.tmrReady, hc, hp, h.tmr_cooldown.2 hp]

/-! ### A delay that goes on keeps the cancel request -/

theorem cancelReq_of_linkView {s t : State} (e : t.linkView = s.linkView) : t.cancelReq = s.cancelReq := by
  simp only [State.linkView, Prod.mk.injEq] at e
  obtain ⟨-, -, -, -, -, hc, -⟩ := e
  exact hc

/-- A command that leaves SEQ busy with a connect withdraws no cancel request: CONNECT is not allowed there, and CLOSE
ends the delay. -/
theorem exec_keeps_cancelReq {i : Instr} {s t : State} (hc : s.connecting = true) (hn : t.phase ≠ .idle)
    (hx : exec i s = .next t) (hr : s.cancelReq = true) : t.cancelReq = true := by
  cases exec_cases hx with
  | pop b u hp ht => exact ht ▸ (cancelReq_of_linkView (fifoPop_linkView hp)).trans hr
  | connect hl ht => simp [State.connecting, hl] at hc
  | close res hl hres ht => simp [ht] at hn
  | cancel hc ht => exact ht ▸ rfl
  | respond | refuse | same | burst | popHold | fclose | read | write => subst t; exact hr

theorem rxStep_cancelReq {s t : State} (hx : rxStep s = .next t) : t.cancelReq = s.cancelReq := by
  rcases rxStep_cases hx with ⟨rfl, -⟩ | ⟨r, b, -, -, ⟨-, rfl⟩ | ⟨-, rfl⟩ | ⟨-, rfl⟩⟩
  · rfl
  all_goals exact cancelReq_of_linkView (finishBurst_linkView _ _)

theorem ownStep_cancelReq {s t : State} (hx : ownStep s = .next t) : t.cancelReq = s.cancelReq := by
  rcases ownStep_cases hx with rfl | ⟨a, -, ⟨b, u, hp, rfl⟩ | ⟨-, rfl⟩⟩
  · rfl
  · exact cancelReq_of_linkView (fifoPop_linkView hp :)
  · rfl

theorem connDone_cancelReq {s t : State} (hx : connDone s = .next t) : t.cancelReq = s.cancelReq := by
  rcases connDone_cases hx with rfl | ⟨a, r, -, -, rfl⟩ <;> rfl

/-- A step that leaves a delay going on withdraws no cancel request. -/
theorem step_keeps_cancelReq {s t : State} (hl : LinkInv s) (hd : s.inDelay) (hn : t.inDelay)
    (hstep : step s = .next t) (hr : s.cancelReq = true) : t.cancelReq = true := by
  have hconn : s.connecting = true := hl.connecting_of_inDelay hd
  cases step_cases hstep with
  | hold he ht => exact ht ▸ hr
  | command c i hm he hdec hx =>
    have hpres : (s.advance.present c).connecting = true := hconn
    exact exec_keeps_cancelReq hpres hn.not_idle hx hr
  | illegal c why hm he hdec ht => exact ht ▸ hr
  | rx hm he hx => exact (rxStep_cancelReq hx).trans hr
  | own hm ho he hx => exact (ownStep_cancelReq hx).trans hr
  | read hm hrd he hx => simp [hl.rd_none hconn] at hrd
  | conn hm hx => exact (connDone_cancelReq hx).trans hr
  | seq answer d hm he hx =>
    have hadv : s.advance.inDelay := hd
    simp [hadv.seqReady] at he
  | cancel hm he ht => simp [ht, State.inDelay] at hn
  | tmr hm he hx => simp [State.tmrReady, hr] at he

/-! ### The steps that end a delay -/

/-- An enabled cancel step leaves SEQ idle (41_link_control.md R155, R159). -/
theorem phase_of_cancelStep {s t : State} (hm : s.nextMove = .cancelStep) (he : s.advance.enabled .cancelStep = true)
    (hstep : step s = .next t) : t.phase = .idle := by
  rw [step_perform hm he] at hstep
  cases hstep
  simp

/-- An enabled delay end changes the phase (R148, R153). -/
theorem phase_of_tmrStep {s t : State} (hm : s.nextMove = .tmrStep) (he : s.advance.enabled .tmrStep = true)
    (hstep : step s = .next t) : t.phase ≠ s.phase := by
  rw [step_perform hm he] at hstep
  rcases tmrStep_cases he hstep with ⟨-, ⟨hp, -, rfl⟩ | ⟨hp, -, rfl⟩⟩
  all_goals
    rw [State.advance_phase] at hp
    simp [hp]

/-! ### Runs -/

/-- In a fair run a move that is enabled from some time on is taken then or later. -/
theorem WeaklyFair.taken {moves : Nat → Move} {run : Nat → State} {mv : Move} {k : Nat}
    (h : WeaklyFair moves run (· = mv)) (he : ∀ n, k ≤ n → (run n).enabled mv = true) :
    ∃ n, k ≤ n ∧ moves n = mv ∧ (run n).enabled mv = true := by
  obtain ⟨n, hkn, htaken, -⟩ := h ⟨k, fun n hn => ⟨mv, rfl, he n hn⟩⟩ k
  exact ⟨n, hkn, htaken, he n hkn⟩

theorem withMove_nextMove (s : State) (m : Move) : (s.withMove m).nextMove = m := rfl

section Run

variable {moves : Nat → Move} {run : Nat → State} (hrun : IsRun moves run) (hinv : ∀ n, LinkInv (run n))

include hrun hinv in
/-- From a pending cancel on, a delay that never ends has it pending. -/
theorem cancelReq_of_endless_delay {k : Nat} (hd : ∀ m, k ≤ m → (run m).inDelay) (hc : (run k).cancelReq = true) :
    ∀ m, k ≤ m → (run m).cancelReq = true := by
  intro m hkm
  induction m, hkm using Nat.le_induction with
  | base => exact hc
  | succ m hkm ih =>
    have hinvm : LinkInv ((run m).withMove (moves m)) := (hinv m).of_linkView rfl
    exact step_keeps_cancelReq hinvm (hd m hkm) (hd (m + 1) (by omega)) (hrun m) ih

include hrun in
theorem phase_after_cancelStep {m : Nat} (hm : moves m = .cancelStep) (he : (run m).enabled .cancelStep = true) :
    (run (m + 1)).phase = .idle := by
  have hstep := hrun m
  rw [hm] at hstep
  exact phase_of_cancelStep (withMove_nextMove _ _) he hstep

include hrun in
theorem phase_after_tmrStep {m : Nat} (hm : moves m = .tmrStep) (he : (run m).enabled .tmrStep = true) :
    (run (m + 1)).phase ≠ (run m).phase := by
  have hstep := hrun m
  rw [hm] at hstep
  exact (phase_of_tmrStep (withMove_nextMove _ _) he hstep :)

end Run

/-- Settles O46: were the delay endless, then, once a cancel is pending, the cancel step would stay enabled, and if none
ever is, the delay end would; the one that fairness takes changes the phase. -/
theorem delayEndsUnderFairness : Obligations.DelayEndsUnderFairness := by
  intro moves run hrun hinv htmr hcancel n hn
  by_contra hnot
  have hstay : ∀ m, n ≤ m → (run m).phase = (run n).phase := by
    intro m hnm
    rcases Nat.eq_or_lt_of_le hnm with rfl | hlt
    · rfl
    · by_contra hne
      exact hnot ⟨m, hlt, hne⟩
  have hdelay : ∀ m, n ≤ m → (run m).inDelay := fun m hnm => by rwa [State.inDelay, hstay m hnm]
  by_cases hpending : ∃ k, n ≤ k ∧ (run k).cancelReq = true
  · obtain ⟨k, hnk, hc⟩ := hpending
    have hdk : ∀ m, k ≤ m → (run m).inDelay := fun m hkm => hdelay m (hnk.trans hkm)
    have hck := cancelReq_of_endless_delay hrun hinv hdk hc
    obtain ⟨m, hkm, hm, he⟩ := hcancel.taken fun m hkm => (hinv m).cancelReady_of_inDelay (hdk m hkm) (hck m hkm)
    exact (hdk (m + 1) (by omega)).not_idle (phase_after_cancelStep hrun hm he)
  · have hnone : ∀ m, n ≤ m → (run m).cancelReq = false := fun m hnm =>
      Bool.eq_false_iff.2 fun hc => hpending ⟨m, hnm, hc⟩
    obtain ⟨m, hnm, hm, he⟩ := htmr.taken fun m hnm => (hinv m).tmrReady_of_inDelay (hdelay m hnm) (hnone m hnm)
    have hphase : (run (m + 1)).phase = (run m).phase := by rw [hstay (m + 1) (by omega), hstay m hnm]
    exact phase_after_tmrStep hrun hm he hphase

end Sys2Proof.Machine

/-! The command encoding (30_encoding.md R80 to R86). Every mask of the opcode map keeps the high bits of a word, its
opcode and its reserved field, and lets go of an operand of 0, 5, 8 or 12 bits. So a row's word is one with the row's high
bits, which is the encoding of the command that the row reads from it. -/

namespace Sys2Proof

/-! ### Words by their high bits -/

theorem high_append_low {a b : Nat} (w : BitVec (a + b)) : w.extractLsb' b a ++ w.extractLsb' 0 b = w := by
  rw [BitVec.extractLsb'_append_extractLsb'_eq_extractLsb' (by omega), BitVec.extractLsb'_eq_self]

/-- A mask of `a` high bits compares the `a` high bits. -/
theorem and_highMask_iff {a b : Nat} {w : BitVec (a + b)} {x : BitVec a} :
    w &&& (BitVec.allOnes a ++ 0#b) = x ++ 0#b ↔ w.extractLsb' b a = x := by
  conv_lhs => rw [← high_append_low w, BitVec.and_append, BitVec.and_allOnes, BitVec.and_zero]
  exact BitVec.append_left_inj _

theorem eq_append_low_iff {a b : Nat} {w : BitVec (a + b)} {x : BitVec a} :
    w = x ++ w.extractLsb' 0 b ↔ w.extractLsb' b a = x := by
  conv_lhs => lhs; rw [← high_append_low w]
  exact BitVec.append_left_inj _

/-- Below the opcode, `k` more of the high bits: a reserved field. -/
theorem high_eq_iff {w : Half} {op : BitVec 4} (hop : opField w = op) {k b : Nat} (hb : 12 = b + k) :
    w.extractLsb' b (4 + k) = op ++ 0#k ↔ w.extractLsb' b k = 0#k := by
  rw [← BitVec.extractLsb'_append_extractLsb'_eq_extractLsb' hb, ← hop, opField, BitVec.append_right_inj]

/-! ### The rows of the opcode map -/

/-- The rows of the opcode map by their format (R81, R84). A row of format N or A has no operand in the word, so it
stands for one word. -/
inductive RowFormat (op : BitVec 4) (r : Row) : Prop where
  | b (hop : op = 0x1#4) (hr : r = ⟨.rx, 0x1000#16, 0xFF00#16, fun w => .push (dField w)⟩)
  | v (hop : op = 0x2#4) (hr : r = ⟨.rx, 0x2000#16, 0xF000#16, fun w => .pushm (nField w)⟩)
  | l (hop : op = 0xD#4) (hr : r = ⟨.app, 0xD000#16, 0xFFE0#16, fun w => .wrbs (lenField w)⟩)
  | na (i : Instr) (hoperands : r.operands = fun _ => i) (hmask : r.mask = 0xFFFF#16) (hmtch : r.mtch = encode i)
      (hencode : encode i = op ++ 0#12) (hop : op ≠ 0x0#4 ∧ op ≠ 0x1#4 ∧ op ≠ 0x2#4 ∧ op ≠ 0xD#4)

theorem rowOf_format {op : BitVec 4} {r : Row} (h : rowOf op = some r) : RowFormat op r := by
  have hop : BitVec.ofNat 4 op.toNat = op := by simp
  unfold rowOf at h
  generalize op.toNat = n at h hop
  subst hop
  split at h <;> cases h
  case h_1 => exact .b rfl rfl
  case h_2 => exact .v rfl rfl
  case h_13 => exact .l rfl rfl
  all_goals exact .na _ rfl rfl rfl rfl (by decide)

theorem rowOf_eq_none_iff {op : BitVec 4} : rowOf op = none ↔ op = 0x0#4 := by
  revert op
  decide

theorem homePort_of_rowOf {w : Half} {r : Row} (h : rowOf (opField w) = some r) : homePort w = r.port := by
  rw [homePort, h]

/-! ### When a row's word matches -/

theorem match_push_iff (w : Half) : w &&& 0xFF00#16 = 0x1000#16 ↔ w.extractLsb' 8 8 = 0x1#4 ++ 0#4 :=
  and_highMask_iff (a := 8) (b := 8) (w := w) (x := 0x1#4 ++ 0#4)

theorem match_pushm_iff (w : Half) : w &&& 0xF000#16 = 0x2000#16 ↔ opField w = 0x2#4 :=
  and_highMask_iff (a := 4) (b := 12) (w := w) (x := 0x2#4)

theorem match_wrbs_iff (w : Half) : w &&& 0xFFE0#16 = 0xD000#16 ↔ w.extractLsb' 5 11 = 0xD#4 ++ 0#7 :=
  and_highMask_iff (a := 11) (b := 5) (w := w) (x := 0xD#4 ++ 0#7)

theorem and_fullMask (w : Half) : w &&& 0xFFFF#16 = w := BitVec.and_allOnes

theorem eq_encode_push_iff (w : Half) : w = encode (.push (dField w)) ↔ w.extractLsb' 8 8 = 0x1#4 ++ 0#4 :=
  eq_append_low_iff (a := 8) (b := 8)

theorem eq_encode_pushm_iff (w : Half) : w = encode (.pushm (nField w)) ↔ opField w = 0x2#4 := by
  rw [encode, nField, BitVec.ofNat_toNat, BitVec.setWidth_eq]
  exact eq_append_low_iff (a := 4) (b := 12)

theorem eq_encode_wrbs_iff (w : Half) : w = encode (.wrbs (lenField w)) ↔ w.extractLsb' 5 11 = 0xD#4 ++ 0#7 := by
  rw [encode, lenField, BitVec.ofNat_toNat, BitVec.setWidth_eq]
  exact eq_append_low_iff (a := 11) (b := 5)

/-- A word matches a row exactly where it is the encoding of the command the row reads from it. -/
theorem match_iff_eq_encode {op : BitVec 4} {r : Row} (h : rowOf op = some r) (w : Half) :
    w &&& r.mask = r.mtch ↔ w = encode (r.operands w) := by
  cases rowOf_format h with
  | b hop hr => subst hr; exact (match_push_iff w).trans (eq_encode_push_iff w).symm
  | v hop hr => subst hr; exact (match_pushm_iff w).trans (eq_encode_pushm_iff w).symm
  | l hop hr => subst hr; exact (match_wrbs_iff w).trans (eq_encode_wrbs_iff w).symm
  | na i hoperands hmask hmtch => rw [hoperands, hmask, hmtch, and_fullMask]

/-- A word decodes to `i` exactly where it is the encoding of `i` and its opcode's row, at its own port, reads `i` from
it. -/
theorem decode_command_iff_eq_encode {p : Port} {w : Half} {i : Instr} :
    decode p w = .command i ↔
      ∃ r, rowOf (opField w) = some r ∧ p = r.port ∧ r.operands w = i ∧ w = encode i := by
  rw [decode_command_iff]
  refine exists_congr fun r => and_congr_right fun hrow => and_congr_right fun _ => ?_
  rw [match_iff_eq_encode hrow, and_comm]
  exact and_congr_right fun hi => by rw [hi]

/-! ### The fields of an encoded command -/

theorem opField_encode_push (d : Byte) : opField (encode (.push d)) = 0x1#4 := by
  rw [opField, encode]
  iterate 2 rw [BitVec.extractLsb'_append_eq_of_le (by decide)]
  exact BitVec.extractLsb'_eq_self

theorem dField_encode_push (d : Byte) : dField (encode (.push d)) = d := by
  rw [dField, encode, BitVec.extractLsb'_append_eq_of_add_le (by decide)]
  exact BitVec.extractLsb'_eq_self

theorem opField_encode_wrbs (len : Nat) : opField (encode (.wrbs len)) = 0xD#4 := by
  rw [opField, encode]
  iterate 2 rw [BitVec.extractLsb'_append_eq_of_le (by decide)]
  exact BitVec.extractLsb'_eq_self

theorem lenField_encode_wrbs {len : Nat} (h : len < 32) : lenField (encode (.wrbs len)) = len := by
  rw [lenField, encode, BitVec.extractLsb'_append_eq_of_add_le (by decide), BitVec.extractLsb'_eq_self,
    BitVec.toNat_ofNat, Nat.mod_eq_of_lt h]

/-- The row of a well-formed command's opcode stands at the command's port and reads the command from its word. -/
theorem rowOf_encode {i : Instr} (h : i.wf = true) :
    ∃ r, rowOf (opField (encode i)) = some r ∧ i.port = r.port ∧ r.operands (encode i) = i := by
  cases i with
  | push d =>
    rw [opField_encode_push]
    exact ⟨_, rfl, rfl, congrArg Instr.push (dField_encode_push d)⟩
  | pushm n =>
    have hn : n < 4096 := of_decide_eq_true h
    rw [encode_pushm_opField]
    exact ⟨_, rfl, rfl, congrArg Instr.pushm (encode_pushm_nField hn)⟩
  | wrbs len =>
    have hlen : len < 32 := of_decide_eq_true h
    rw [opField_encode_wrbs]
    exact ⟨_, rfl, rfl, congrArg Instr.wrbs (lenField_encode_wrbs hlen)⟩
  | pop | fclose | connect | close | cancel | rds8 | rdu8 | rds16 | rdu16 | wrb | wrs16 | wru16 =>
    exact ⟨_, rfl, rfl, rfl⟩

/-- Settles O1: the row of the command's opcode reads the command back, and the word is its encoding. -/
theorem decodeEncodeAgree : Obligations.DecodeEncodeAgree := by
  intro i h
  obtain ⟨r, hrow, hport, hoperands⟩ := rowOf_encode h
  exact decode_command_iff_eq_encode.2 ⟨r, hrow, hport, hoperands, rfl⟩

/-- Settles O2: a decoded word is the encoding of its command; the operands fit and the port is the command's own by
`decode_command_wf` and `decode_command_port`. -/
theorem decodedWordIsItsEncoding : Obligations.DecodedWordIsItsEncoding := by
  intro p w i h
  obtain ⟨-, -, -, -, hw⟩ := decode_command_iff_eq_encode.1 h
  exact ⟨Machine.decode_command_wf h, (Machine.decode_command_port h).symm, hw.symm⟩

/-! ### The illegal words -/

/-- A reserved field of the word's format is not zero (R86), on the word's raw bits; format V has no such field. -/
def reservedNonzero (w : Half) : Prop :=
  (opField w = 0x1#4 ∧ w.extractLsb' 8 4 ≠ 0#4) ∨ (opField w = 0xD#4 ∧ w.extractLsb' 5 7 ≠ 0#7) ∨
    (opField w ≠ 0x0#4 ∧ opField w ≠ 0x1#4 ∧ opField w ≠ 0x2#4 ∧ opField w ≠ 0xD#4 ∧ w.extractLsb' 0 12 ≠ 0#12)

/-- A word fails its opcode's row exactly where a reserved field is not zero. -/
theorem not_match_iff_reservedNonzero {w : Half} {r : Row} (h : rowOf (opField w) = some r) :
    w &&& r.mask ≠ r.mtch ↔ reservedNonzero w := by
  cases rowOf_format h with
  | b hop hr =>
    have hmatch : w &&& 0xFF00#16 = 0x1000#16 ↔ w.extractLsb' 8 4 = 0#4 :=
      (match_push_iff w).trans (high_eq_iff hop (k := 4) (b := 8) rfl)
    simp [reservedNonzero, hr, hop, hmatch]
  | v hop hr =>
    have hmatch : w &&& 0xF000#16 = 0x2000#16 := (match_pushm_iff w).2 hop
    simp [reservedNonzero, hr, hop, hmatch]
  | l hop hr =>
    have hmatch : w &&& 0xFFE0#16 = 0xD000#16 ↔ w.extractLsb' 5 7 = 0#7 :=
      (match_wrbs_iff w).trans (high_eq_iff hop (k := 7) (b := 5) rfl)
    simp [reservedNonzero, hr, hop, hmatch]
  | na i hoperands hmask hmtch hencode hop =>
    have hmatch : w &&& r.mask = r.mtch ↔ w.extractLsb' 0 12 = 0#12 := by
      rw [hmask, hmtch, and_fullMask, hencode]
      conv_lhs => lhs; rw [word_eq_op_append w]
      exact BitVec.append_right_inj _
    simp [reservedNonzero, hop, hmatch]

/-- Settles O3: where the opcode has a row, a word is illegal at another port or with a reserved field that is not zero;
only OP = 0x0 has no row. -/
theorem illegalWordsExactly : Obligations.IllegalWordsExactly := by
  intro p w
  rw [decode_illegal_iff]
  cases hrow : rowOf (opField w) with
  | none => simp [rowOf_eq_none_iff.1 hrow]
  | some r =>
    have hop : opField w ≠ 0x0#4 := mt rowOf_eq_none_iff.2 (by simp [hrow])
    rw [homePort_of_rowOf hrow, ← reservedNonzero, ← not_match_iff_reservedNonzero hrow]
    simp [hop]

end Sys2Proof

/-! The packed response (30_encoding.md R90 to R92): its three fields, and the status read back from ST and CA. -/

namespace Sys2Proof.Machine

theorem pack_st (r : Rsp) : r.pack.extractLsb' 36 4 = r.st.stCode := by
  rw [Rsp.pack]
  iterate 2 rw [BitVec.extractLsb'_append_eq_of_le (by decide)]
  exact BitVec.extractLsb'_eq_self

theorem pack_ca (r : Rsp) : r.pack.extractLsb' 32 4 = r.st.caCode := by
  rw [Rsp.pack, BitVec.extractLsb'_append_eq_of_le (by decide), BitVec.extractLsb'_append_eq_of_add_le (by decide)]
  exact BitVec.extractLsb'_eq_self

theorem pack_val (r : Rsp) : r.pack.extractLsb' 0 32 = r.val := by
  rw [Rsp.pack, BitVec.extractLsb'_append_eq_of_add_le (by decide)]
  exact BitVec.extractLsb'_eq_self

/-- The table of R92, read from the code to the cause; none for the codes that are never produced (R87). -/
def Cause.ofCode (ca : BitVec 4) : Option Cause :=
  match ca.toNat with
  | 0 => some .attemptsExhausted
  | 1 => some .cancelled
  | 2 => some .closed
  | _ => none

/-- The table of R91, read from the codes to the status. -/
def Status.ofCodes (st ca : BitVec 4) : Option Status :=
  match st.toNat with
  | 0 => some .ok
  | 1 => some .transportOpen
  | 2 => (Cause.ofCode ca).map .connectionFailed
  | 3 => some .channelClosed
  | 4 => some .invalidArgument
  | 5 => some .transportIo
  | 6 => some .illegalCommand
  | 7 => some .overflow
  | _ => none

theorem Cause.ofCode_code (c : Cause) : Cause.ofCode c.code = some c := by cases c <;> rfl

theorem Status.ofCodes_codes (st : Status) : Status.ofCodes st.stCode st.caCode = some st := by
  cases st with
  | connectionFailed c => exact congrArg (Option.map Status.connectionFailed) c.ofCode_code
  | _ => rfl

/-- The reserved values of ST and CA are never produced (R87), and only CONNECTION_FAILED has a cause (R92). -/
theorem Status.codes_bounds (st : Status) :
    st.stCode.toNat ≤ 7 ∧ st.caCode.toNat ≤ 2 ∧ (st.caCode ≠ 0#4 → st.stCode = 2#4) := by
  cases st with
  | connectionFailed c => cases c <;> decide
  | _ => decide

theorem pack_injective {r r' : Rsp} (h : r.pack = r'.pack) : r = r' := by
  have hst : r.st.stCode = r'.st.stCode := by rw [← pack_st, h, pack_st]
  have hca : r.st.caCode = r'.st.caCode := by rw [← pack_ca, h, pack_ca]
  have hval : r.val = r'.val := by rw [← pack_val, h, pack_val]
  have hstatus : some r.st = some r'.st := by rw [← Status.ofCodes_codes, hst, hca, Status.ofCodes_codes]
  cases r
  cases r'
  exact congrArg₂ Rsp.mk (Option.some.inj hstatus) hval

/-- Settles O29: the code tables by evaluation, one lemma for each field, and the injectivity of the packing from the
status read back from its codes. -/
theorem responsePacking : Obligations.ResponsePacking := by
  refine ⟨⟨rfl, rfl⟩, fun r => ?_, fun r r' h => pack_injective h⟩
  exact ⟨pack_st r, pack_ca r, pack_val r, r.st.codes_bounds⟩

end Sys2Proof.Machine

/-! Presenting a word: the examples of 30_encoding.md R97, then legal and illegal words (R85, R86) and the agents' own
moves (60_exceptions.md R232) as equations of the step. -/

namespace Sys2Proof.Machine

/-- Settles O5: each example by evaluation of the assembler or of the decoder. -/
theorem encodingExamples : Obligations.EncodingExamples := by
  intro p
  exact ⟨rfl, rfl, rfl, rfl, rfl, rfl, rfl, rfl, rfl, rfl, rfl, ⟨rfl, rfl⟩, fun _ => ⟨rfl, rfl⟩, ⟨rfl, rfl⟩, ⟨rfl, rfl⟩,
    fun _ => rfl, rfl, rfl, rfl, rfl⟩

/-- A word that is illegal at its agent's port is answered ILLEGAL_COMMAND (R86). -/
theorem step_illegal {s : State} {c : Cmd} {why : IllegalReason} (hm : s.nextMove = .issue c)
    (he : s.advance.canIssue c = true) (hd : decode c.agent.port c.cw = .illegal why) :
    step s = .next (s.advance.raise c.agent .illegalCommand) := by
  rw [step_perform hm he]
  simp only [State.perform, State.issueCommand, hd, illegalStep]

/-- Settles O4: the step raises ILLEGAL_COMMAND, whose one effect is the response. -/
theorem illegalCommandResponds : Obligations.IllegalCommandResponds := by
  intro s c why hm he hd
  exact step_illegal hm he hd

/-- Settles O6: a legal word by `step_issue`; an agent's own move by `step_perform`, which hands the move to the agent's
step. -/
theorem stepRunsDecodedCommand : Obligations.StepRunsDecodedCommand := by
  refine ⟨fun s c i hm he hd => step_issue hm he hd, fun s he => ?_⟩
  have hperform {m : Move} {o : Result} (ho : s.advance.perform m = .done o) (hm : s.nextMove = m) : step s = o := by
    rw [step_perform hm (hm ▸ he), ho]
  exact ⟨hperform rfl, hperform rfl, hperform rfl, hperform rfl, fun answer d => hperform rfl, hperform rfl,
    hperform rfl⟩

end Sys2Proof.Machine

/-! When a step is enabled (40_fifo_ops.md R114, R117, R124): what `push1` does in each state of the FIFO, what lifts a
hold, and which agents may present a command (10_state.md R34, 60_exceptions.md R231, R236). -/

namespace Sys2Proof.Machine

/-! ### The four cases of `push1` (40_fifo_ops.md R111) -/

theorem push1_of_closed {s : State} (hclosed : s.fclosed = true) : s.push1 = .rejectClosed := by
  simp [State.push1, hclosed]

theorem push1_of_space {s : State} (hopen : s.fclosed = false) (hspace : s.count.toNat < s.cfg.depth.toNat) :
    s.push1 = .accept := by
  simp [State.push1, hopen, hspace]

theorem push1_of_full_drop {s : State} (hopen : s.fclosed = false) (hfull : s.count = s.cfg.depth)
    (hpolicy : s.cfg.policy = .drop) : s.push1 = .dropped := by
  simp [State.push1, hopen, hfull, hpolicy]

theorem push1_of_full_block {s : State} (hopen : s.fclosed = false) (hfull : s.count = s.cfg.depth)
    (hpolicy : s.cfg.policy = .block) : s.push1 = .hold := by
  simp [State.push1, hopen, hfull, hpolicy]

theorem open_of_push1_accept {s : State} (h : s.push1 = .accept) : s.fclosed = false := by
  by_contra hclosed
  simp [push1_of_closed (by simpa using hclosed)] at h

/-- A push holds at no FIFO but a full open one under BLOCK (R114). -/
theorem push1_ne_hold_iff (s : State) :
    s.push1 ≠ .hold ↔ s.fclosed = true ∨ s.count.toNat < s.cfg.depth.toNat ∨ s.cfg.policy = .drop := by
  rcases push1_cases s with ⟨hp, hclosed⟩ | ⟨hopen, ⟨hp, hspace⟩ | ⟨hfull, ⟨hp, hdrop⟩ | ⟨hp, hblock⟩⟩⟩
  · simp [hp, hclosed]
  · simp [hp, hspace]
  · simp [hp, hdrop]
  · simp [hp, hopen, hfull, hblock]

/-! ### The held agents -/

theorem rxReady_iff (s : State) : s.rxReady = true ↔ s.pending ≠ [] ∧ s.push1 ≠ .hold := by
  cases hrx : s.rx <;> simp [State.rxReady, State.pending, hrx]

/-- POP and the pop steps of the typed reads are enabled by a byte or by the closed mark (R117). -/
theorem popReady_iff {s : State} (h : FifoInv s) : s.popReady = true ↔ s.queue ≠ [] ∨ s.fclosed = true := by
  simp [State.popReady, queue_nil_iff h]

theorem enabled_rxStep_iff {s : State} (h : FifoInv s) :
    s.enabled .rxStep = true ↔
      s.pending ≠ [] ∧ (s.fclosed = true ∨ s.queue.length < s.cfg.depth.toNat ∨ s.cfg.policy = .drop) := by
  rw [h.queue_length, ← push1_ne_hold_iff]
  exact rxReady_iff s

theorem enabled_ownStep_iff {s : State} (h : FifoInv s) :
    s.enabled .ownStep = true ↔ s.ownPop.isSome = true ∧ (s.queue ≠ [] ∨ s.fclosed = true) := by
  rw [← popReady_iff h]
  exact Bool.and_eq_true_iff

theorem enabled_readStep_iff {s : State} (h : FifoInv s) :
    s.enabled .readStep = true ↔ s.rd.isSome = true ∧ (s.queue ≠ [] ∨ s.fclosed = true) := by
  rw [← popReady_iff h]
  exact Bool.and_eq_true_iff

/-! ### Who may present a command: one equation for each kind of issuer -/

theorem enabled_issue_rx (s : State) {c : Cmd} (ha : c.agent = .rx) :
    s.enabled (.issue c) = (s.rx.isNone && (s.cfg.standalone || s.handle)) := by
  simp only [State.enabled, State.canIssue, ha]

theorem enabled_issue_own (s : State) {c : Cmd} (ha : c.agent = .own) :
    s.enabled (.issue c) = (s.cfg.standalone && (s.ownPop.isNone || c.cw != encode .pop)) := by
  simp only [State.enabled, State.canIssue, ha]

theorem enabled_issue_app (s : State) {c : Cmd} {k : Nat} (ha : c.agent = .app k) :
    s.enabled (.issue c) = (!s.cfg.standalone && decide (k < s.cfg.nApp) && !s.isHeld (.app k)) := by
  simp only [State.enabled, State.canIssue, ha]

theorem enabled_issue_host (s : State) {c : Cmd} (ha : c.agent = .host) :
    s.enabled (.issue c) = (!s.cfg.standalone && hostMayIssue c.cw) := by
  simp only [State.enabled, State.canIssue, ha]

/-- While a burst is in flight RX presents nothing (40_fifo_ops.md R116). -/
theorem not_enabled_issue_rx {s : State} {c : Cmd} (hrx : s.rx.isSome = true) (ha : c.agent = .rx) :
    s.enabled (.issue c) = false := by
  have hbusy : s.rx.isNone = false := by simpa using hrx
  rw [enabled_issue_rx s ha, hbusy, Bool.false_and]

theorem isHeld_iff (s : State) (a : Issuer) :
    s.isHeld a = true ↔ s.connCaller = some a ∨ s.rd.map ReadRec.agent = some a := by
  simp [State.isHeld]

theorem hostMayIssue_iff (w : Half) : hostMayIssue w = true ↔ w = encode .close ∨ w = encode .cancel := by
  simp [hostMayIssue]

/-- Settles O17: the three holds by their `iff`, a move that is not enabled by `step_hold`, and each issuer by its
equation. -/
theorem holdsLiftAtOnce : Obligations.HoldsLiftAtOnce := by
  refine ⟨fun s hinv => ⟨enabled_readStep_iff hinv, enabled_ownStep_iff hinv, enabled_rxStep_iff hinv⟩,
    fun s he => step_hold he, fun s k c happ => ⟨fun hheld => ?_, fun hconn hread hk hwhole => ?_⟩,
    fun s c => ⟨fun hwhole => ⟨fun hrx => ?_, fun hhost => ?_⟩,
      fun halone => ⟨fun hrx => ?_, fun hown hidle => ?_, fun happ => ?_⟩⟩⟩
  · simp [enabled_issue_app s happ, (isHeld_iff s _).2 hheld]
  · have hidle : s.isHeld (.app k) = false := by
      rw [Bool.eq_false_iff, ne_eq, isHeld_iff]
      exact not_or.2 ⟨hconn, hread⟩
    simp [enabled_issue_app s happ, hidle, hk, hwhole]
  · simp [enabled_issue_rx s hrx, hwhole, and_comm]
  · simp [enabled_issue_host s hhost, hwhole, hostMayIssue_iff]
  · simp [enabled_issue_rx s hrx, halone]
  · simp [enabled_issue_own s hown, halone, hidle]
  · rcases happ with ⟨k, happ⟩ | hhost
    · simp [enabled_issue_app s happ, halone]
    · simp [enabled_issue_host s hhost, halone]

end Sys2Proof.Machine

/-! The pushes (40_fifo_ops.md R111 to R116): the issue step, then one equation for each case of the micro-step, the
record of the burst, and a whole burst by induction on its bytes. -/

namespace Sys2Proof.Machine

/-! ### The issue step -/

theorem startBurst_of_ne_nil (s : State) {bs : List Byte} (hne : bs ≠ []) :
    s.startBurst bs =
      { s with rx := some { rem := bs, acc := 0, st := .ok }, instream := s.instream ++ bs } := by
  obtain ⟨b, bs, rfl⟩ := List.exists_cons_of_ne_nil hne
  exact startBurst_cons s b bs

/-- A push presented while a burst is in flight does nothing (log 22). -/
theorem exec_push_busy {s : State} (hrx : s.rx.isSome = true) (d : Byte) : exec (.push d) s = .next s := by
  simp [exec, execPush, hrx]

theorem exec_pushm_busy {s : State} (hrx : s.rx.isSome = true) (n : Nat) : exec (.pushm n) s = .next s := by
  simp [exec, execPushm, hrx]

theorem exec_push_idle {s : State} (hrx : s.rx = none) (d : Byte) : exec (.push d) s = .next (s.startBurst [d]) := by
  simp [exec, execPush, hrx]

theorem exec_pushm_mismatch {s : State} {n : Nat} (hrx : s.rx = none) (hn : s.cur.burst.length ≠ n) :
    exec (.pushm n) s = .next s.refuse := by
  simp [exec, execPushm, hrx, hn]

theorem exec_pushm_idle {s : State} {n : Nat} (hrx : s.rx = none) (hn : s.cur.burst.length = n) :
    exec (.pushm n) s = .next (s.startBurst s.cur.burst) := by
  simp [exec, execPushm, hrx, hn]

/-- Settles O7: the cases of the issue step, and that RX presents nothing while a burst is in flight. -/
theorem pushesStartTheirBurst : Obligations.PushesStartTheirBurst := by
  refine fun d n s => ⟨fun hidle => ⟨exec_push_idle hidle d, exec_pushm_mismatch hidle, fun hn hzero => ?_,
    fun hn hne => ?_⟩, fun hbusy => ⟨exec_push_busy hbusy d, exec_pushm_busy hbusy n, fun c ha =>
      not_enabled_issue_rx hbusy ha⟩⟩
  · have hnil : s.cur.burst = [] := List.length_eq_zero_iff.1 (hn.trans hzero)
    rw [exec_pushm_idle hidle hn, hnil, startBurst_nil]
    rfl
  · have hcons : s.cur.burst ≠ [] := fun hnil => hne (by rw [← hn, hnil, List.length_nil])
    rw [exec_pushm_idle hidle hn, startBurst_of_ne_nil s hcons]

/-! ### The burst's record -/

theorem finishBurst_done (s : State) (acc : Nat) (st : RxStatus) :
    s.finishBurst { rem := [], acc := acc, st := st } =
      { s with rx := none, rsps := s.rsps ++ [(.rx, { st := st.toStatus, val := countVal acc })] } := rfl

theorem finishBurst_of_ne_nil (s : State) {r : RxRec} (hne : r.rem ≠ []) :
    s.finishBurst r = { s with rx := some r } := by
  rw [State.finishBurst, if_neg hne]

theorem finishBurst_frame (s : State) (r : RxRec) :
    s.finishBurst r = { s with rx := (s.finishBurst r).rx, rsps := (s.finishBurst r).rsps } := by
  unfold State.finishBurst
  split <;> rfl

theorem finishBurst_queue (s : State) (r : RxRec) : (s.finishBurst r).queue = s.queue := by
  obtain ⟨hqueue, -, -⟩ := histories_of_fifoView (finishBurst_fifoView s r)
  exact hqueue

/-! ### The micro-step -/

section MicroStep

variable {s : State} {b : Byte} {bs : List Byte} {acc : Nat} {st : RxStatus}
  (hrx : s.rx = some { rem := b :: bs, acc := acc, st := st })

include hrx

theorem rxStep_of_accept (hinv : FifoInv s) (hp : s.push1 = .accept) :
    rxStep s = .next ((s.stored b).finishBurst { rem := bs, acc := acc + 1, st := st }) := by
  simp only [rxStep, hrx, hp, acceptByte_eq hinv, List.tail_cons]

theorem rxStep_of_dropped (hp : s.push1 = .dropped) :
    rxStep s =
      .next ({ s with ovf := true }.finishBurst
        { rem := bs, acc := acc, st := if st = RxStatus.ok then RxStatus.overflow else st }) := by
  simp only [rxStep, hrx, hp, State.dropByte, List.tail_cons]

theorem rxStep_of_rejectClosed (hp : s.push1 = .rejectClosed) :
    rxStep s = .next (s.finishBurst { rem := [], acc := acc, st := .channelClosed }) := by
  simp only [rxStep, hrx, hp, State.rejectBurst]

theorem pending_ne_nil_of_burst : s.pending ≠ [] := by
  simp [pending_eq_rem hrx]

end MicroStep

/-- Settles O11: the burst ends as at any closed FIFO. -/
theorem pushAtClosedRejects : Obligations.PushAtClosedRejects := by
  intro s b bs acc st hrx hclosed
  rw [rxStep_of_rejectClosed hrx (push1_of_closed hclosed), finishBurst_done]
  rfl

/-- The outcome reported for a burst that ends on a dropped byte: OVERFLOW unless it is worse already (R113). -/
theorem toStatus_of_drop (st : RxStatus) :
    (if st = .ok then RxStatus.overflow else st).toStatus =
      if st = .channelClosed then Status.channelClosed else Status.overflow := by
  cases st <;> rfl

/-- Settles O9: the drop marks the overflow, and the record moves on or is the burst's last. -/
theorem dropAtFullSetsOverflow : Obligations.DropAtFullSetsOverflow := by
  intro s b bs acc st hrx hpolicy hopen hfull
  rw [rxStep_of_dropped hrx (push1_of_full_drop hopen hfull hpolicy)]
  refine ⟨fun hne => ?_, fun hnil => ?_⟩
  · rw [finishBurst_of_ne_nil _ hne]
  · rw [hnil, finishBurst_done, toStatus_of_drop]
    rfl

theorem mem_of_fifoView {s t : State} (e : t.fifoView = s.fifoView) : t.mem = s.mem := by
  simp only [State.fifoView, Prod.mk.injEq] at e
  obtain ⟨-, hmem, -⟩ := e
  exact hmem

/-- Settles O8: the accept writes at `tail` and the rest is the record's; no step but an accept changes storage. -/
theorem acceptStoresOneByte : Obligations.AcceptStoresOneByte := by
  refine ⟨fun s b bs acc st hinv hrx hopen hspace => ?_, fun s t hstep hmem => ?_⟩
  · refine ⟨(s.stored b).finishBurst { rem := bs, acc := acc + 1, st := st },
      rxStep_of_accept hrx hinv (push1_of_space hopen hspace), ?_, fun a ha => ?_, ?_, ?_, ?_, fun hne => ?_,
      fun hnil => ?_, ?_⟩
    · rw [State.finishBurst_mem]
      exact Memory.read_write_same s.mem _ b
    · rw [State.finishBurst_mem]
      exact Memory.read_write_ne s.mem b ha
    · rw [State.finishBurst_tail]
      exact ringNext_toNat hinv.depth_pos
    · rw [State.finishBurst_count]
      exact count_add_one hspace
    · rw [finishBurst_queue, queue_stored hinv b hspace]
    · rw [finishBurst_of_ne_nil _ hne]
      exact ⟨rfl, rfl⟩
    · rw [hnil, finishBurst_done]
      exact ⟨rfl, rfl⟩
    · rw [State.finishBurst_mem, State.finishBurst_tail, State.finishBurst_count]
      exact finishBurst_frame (s.stored b) _
  · rcases step_fifoView hstep with hsame | ⟨hm, hacc, -⟩ | ⟨b, u, hpop, htaken⟩
    · exact absurd (mem_of_fifoView hsame) hmem
    · exact ⟨hm, open_of_push1_accept hacc, count_lt_of_push1_accept hacc⟩
    · obtain ⟨-, -, -, rfl⟩ := fifoPop_byte hpop
      exact absurd (mem_of_fifoView htaken) hmem

/-! ### A held push -/

/-- A POP that returns a byte leaves a free place. -/
theorem count_lt_of_fifoPop {s t : State} {b : Byte} (hinv : FifoInv s) (hpop : s.fifoPop = .byte b t) :
    t.count.toNat < t.cfg.depth.toNat := by
  obtain ⟨hne, -, -, rfl⟩ := fifoPop_byte hpop
  show (s.count - 1#16).toNat < s.cfg.depth.toNat
  have hpos := count_toNat_pos hne
  have hle := hinv.count_le
  rw [count_sub_one hne]
  omega

/-- Settles O10: `push1` holds at the full FIFO, accepts after a POP and rejects after a close. -/
theorem blockAtFullHolds : Obligations.BlockAtFullHolds := by
  intro s b bs acc st hinv hrx hpolicy hopen hfull
  have hpending : s.pending ≠ [] := pending_ne_nil_of_burst hrx
  have hheld : s.enabled .rxStep = false := by
    rw [Bool.eq_false_iff]
    exact fun he => ((rxReady_iff s).1 he).2 (push1_of_full_block hopen hfull hpolicy)
  refine ⟨hheld, fun c ha => not_enabled_issue_rx (by simp [hrx]) ha, fun hm => ?_, fun c t hpop => ?_, ?_⟩
  · have hadv : s.advance.enabled s.nextMove = false := by rw [hm]; exact hheld
    exact step_hold hadv
  · have hspace := count_lt_of_fifoPop hinv hpop
    obtain ⟨-, -, -, rfl⟩ := fifoPop_byte hpop
    have hacc : (s.taken c).push1 = .accept := push1_of_space hopen hspace
    exact ⟨(rxReady_iff _).2 ⟨hpending, by simp [hacc]⟩, hacc⟩
  · have hrej : s.closeFifo.push1 = .rejectClosed := push1_of_closed rfl
    exact ⟨(rxReady_iff _).2 ⟨hpending, by simp [hrej]⟩, hrej⟩

/-! ### A whole burst -/

theorem rxSteps_succ {s t : State} (n : Nat) (h : rxStep s = .next t) : rxSteps (n + 1) s = rxSteps n t := by
  rw [rxSteps, h]

/-- The rest of a burst that fits: one micro-step for each byte, the bytes in order, then the response (R116). -/
theorem rxSteps_burst {bs : List Byte} (hne : bs ≠ []) {s : State} {acc : Nat} (hinv : FifoInv s)
    (hrx : s.rx = some { rem := bs, acc := acc, st := .ok }) (hopen : s.fclosed = false)
    (hfit : s.count.toNat + bs.length ≤ s.cfg.depth.toNat) :
    ∃ t, rxSteps bs.length s = .next t ∧ t.queue = s.queue ++ bs ∧ t.rx = none ∧
      t.count.toNat = s.count.toNat + bs.length ∧
      t.rsps = s.rsps ++ [(.rx, { st := .ok, val := countVal (acc + bs.length) })] := by
  induction bs generalizing s acc with
  | nil => exact absurd rfl hne
  | cons b bs ih =>
    rw [List.length_cons] at hfit ⊢
    have hspace : s.count.toNat < s.cfg.depth.toNat := by omega
    have hqueue : (s.stored b).queue = s.queue ++ [b] := queue_stored hinv b hspace
    have hcount : (s.stored b).count.toNat = s.count.toNat + 1 := count_add_one hspace
    rw [rxSteps_succ _ (rxStep_of_accept hrx hinv (push1_of_space hopen hspace))]
    by_cases hbs : bs = []
    · subst hbs
      exact ⟨_, rfl, (finishBurst_queue _ _).trans hqueue, rfl, hcount, rfl⟩
    · rw [finishBurst_of_ne_nil _ hbs]
      have hinv' : FifoInv { s.stored b with rx := some { rem := bs, acc := acc + 1, st := .ok } } :=
        (hinv.stored b hspace).of_fifoView rfl
      have hfit' : (s.stored b).count.toNat + bs.length ≤ s.cfg.depth.toNat := by omega
      obtain ⟨t, hsteps, hq, hnone, hc, hrsps⟩ := ih hbs hinv' rfl hopen hfit'
      refine ⟨t, hsteps, ?_, hnone, ?_, ?_⟩
      · rw [hq, List.append_cons, ← hqueue]
        rfl
      · rw [hc]
        show (s.stored b).count.toNat + bs.length = _
        omega
      · rw [hrsps, Nat.add_assoc, Nat.add_comm 1]
        rfl

/-- Settles O12: the issue step sets the burst up and leaves the FIFO alone; its micro-steps by `rxSteps_burst`. -/
theorem burstCompletesWithSpace : Obligations.BurstCompletesWithSpace := by
  intro n s hinv hrx hopen hn hpos hfit
  have hne : s.cur.burst ≠ [] := List.length_pos_iff.1 (hn ▸ hpos)
  have hissue := exec_pushm_idle hrx hn
  have hinv' : FifoInv (s.startBurst s.cur.burst) := hinv.of_fifoView (startBurst_fifoView _ _)
  rw [startBurst_of_ne_nil s hne] at hissue hinv'
  subst hn
  obtain ⟨t, hsteps, hqueue, hnone, hcount, hrsps⟩ := rxSteps_burst hne hinv' rfl hopen hfit
  refine ⟨_, t, hissue, hsteps, hqueue, hnone, hcount, ?_⟩
  rw [hrsps, Nat.zero_add]
  rfl

end Sys2Proof.Machine

/-! POP and FCLOSE (40_fifo_ops.md R117 to R123): one equation for each case of POP and of the held POP. -/

namespace Sys2Proof.Machine

/-- POP at a nonempty FIFO (R118). -/
theorem exec_pop_cons {s : State} {b : Byte} {q : List Byte} (hinv : FifoInv s) (hq : s.queue = b :: q) :
    exec .pop s = .next ((s.taken b).complete s.cur.agent (zextByte b)) := by
  simp only [exec, execPop, fifoPop_cons hinv hq]

/-- POP at an empty closed FIFO (R119). -/
theorem exec_pop_closed {s : State} (hempty : s.count = 0#16) (hclosed : s.fclosed = true) :
    exec .pop s = .next (s.raise s.cur.agent .channelClosed) := by
  simp only [exec, execPop, fifoPop_nil hempty, hclosed, if_true]

/-- POP at an empty open FIFO (R120). -/
theorem exec_pop_held {s : State} (hempty : s.count = 0#16) (hopen : s.fclosed = false) :
    exec .pop s = .next { s with ownPop := some s.cur.agent } := by
  simp [exec, execPop, fifoPop_nil hempty, hopen]

/-- A held POP once a byte is there. -/
theorem ownStep_cons {s : State} {a : Issuer} {b : Byte} {q : List Byte} (ha : s.ownPop = some a) (hinv : FifoInv s)
    (hq : s.queue = b :: q) :
    ownStep s = .next ({ s.taken b with ownPop := none }.complete a (zextByte b)) := by
  simp only [ownStep, ha, fifoPop_cons hinv hq]

/-- A held POP once the FIFO is closed. -/
theorem ownStep_closed {s : State} {a : Issuer} (ha : s.ownPop = some a) (hempty : s.count = 0#16)
    (hclosed : s.fclosed = true) :
    ownStep s = .next ({ s with ownPop := none }.raise a .channelClosed) := by
  simp only [ownStep, ha, fifoPop_nil hempty, hclosed, if_true]

/-- Settles O13: the oldest byte stands at `head`, and POP takes it. -/
theorem popReturnsOldestByte : Obligations.PopReturnsOldestByte := by
  intro s b q hinv hq
  obtain ⟨hne, -, hread, -⟩ := fifoPop_byte (fifoPop_cons hinv hq)
  have hpos := count_toNat_pos hne
  refine ⟨_, exec_pop_cons hinv hq, hread, ringNext_toNat hinv.depth_pos, ?_, queue_taken hinv hq, rfl⟩
  show (s.count - 1#16).toNat + 1 = s.count.toNat
  rw [count_sub_one hne]
  omega

theorem count_of_fifoView {s t : State} (e : t.fifoView = s.fifoView) : t.count = s.count := by
  simp only [State.fifoView, Prod.mk.injEq] at e
  obtain ⟨-, -, -, -, hcount, -⟩ := e
  exact hcount

/-- Settles O14: a step that changes `count` is an accept, which needs an open FIFO, or takes a byte, which needs one to
be there; and no step opens a closed FIFO. -/
theorem popAtClosedEmptyReportsClosed : Obligations.PopAtClosedEmptyReportsClosed := by
  refine ⟨fun s hempty hclosed => exec_pop_closed hempty hclosed, fun s t hstep hempty hclosed => ⟨?_, ?_⟩⟩
  · rcases step_fifoView hstep with hsame | ⟨-, hacc, -⟩ | ⟨b, u, hpop, -⟩
    · exact (count_of_fifoView hsame).trans hempty
    · simp [open_of_push1_accept hacc] at hclosed
    · obtain ⟨hne, -⟩ := fifoPop_byte hpop
      exact absurd hempty hne
  · exact (step_burst hstep).closed hclosed

/-- Settles O15: the held POP waits for a byte or the closed mark, and answers each; FCLOSE is another word than POP. -/
theorem popAtOpenEmptyHolds : Obligations.PopAtOpenEmptyHolds := by
  intro s hinv hempty hopen
  have hheld : s.enabled .ownStep = false := by
    rw [Bool.eq_false_iff, ne_eq, enabled_ownStep_iff hinv]
    simp [(queue_nil_iff hinv).2 hempty, hopen]
  refine ⟨exec_pop_held hempty hopen, hheld, fun a b t _ ha ht hq => ⟨?_, ?_⟩, fun a ha => ⟨?_, ?_, ?_⟩⟩
  · exact (enabled_ownStep_iff ht).2 ⟨by simp [ha], .inl (by simp [hq])⟩
  · exact ⟨_, ownStep_cons ha ht hq, rfl, queue_taken ht hq, rfl⟩
  · have hinv' : FifoInv s.closeFifo := hinv.of_fifoView rfl
    exact (enabled_ownStep_iff hinv').2 ⟨by simp [ha], .inr rfl⟩
  · exact ownStep_closed (s := s.closeFifo) ha hempty rfl
  · intro c hown halone
    have hwords : encode .fclose ≠ encode .pop := by decide
    exact ⟨fun hw => by simp [enabled_issue_own s hown, halone, hw, hwords],
      fun hw => by simp [enabled_issue_own s hown, ha, hw]⟩

/-- Settles O16: the closed mark is no part of the content, and setting it twice is setting it once. -/
theorem fcloseSetsClosedMark : Obligations.FcloseSetsClosedMark := by
  intro s
  exact ⟨rfl, rfl, rfl⟩

end Sys2Proof.Machine

/-! The steps of the Link Controller as equations (41_link_control.md R141 to R159): the entry into CLOSED, the
commands, and the step of SEQ in each phase. -/

namespace Sys2Proof.Machine

/-! ### Entering CLOSED (R155) -/

theorem enterClosed_eq (s : State) (res : Option Rsp) : s.enterClosed res = s.closedWith res := by
  cases hh : s.handle <;> cases hc : s.connCaller <;>
    simp [State.enterClosed, State.releaseHandle, State.closeFifo, State.postResult, State.closedWith, hh, hc]

theorem wire_append (es fs : List TEvent) : wire (es ++ fs) = wire es ++ wire fs := by
  induction es with
  | nil => rfl
  | cons e es ih => cases e <;> simp [wire, ih]

/-- Settles O34: the fields by `enterClosed_eq`; a flush and a close put no byte on the wire. -/
theorem enterClosedEffect : Obligations.EnterClosedEffect := by
  intro s res
  refine ⟨enterClosed_eq s res, ?_⟩
  rw [State.enterClosed_tev, wire_append]
  cases s.handle <;> exact List.append_nil _

/-! ### The commands -/

theorem exec_connect_unopened {s : State} (hl : s.link = .unopened) :
    exec .connect s =
      .next
        { s with
          link := .opening
          phase := .openPort
          attempt := 1#2
          polls := 0
          cancelReq := false
          connCaller := some s.cur.agent
          connResult := none } := by
  simp only [exec, execConnect, hl]

/-- Settles O30: the equation of CONNECT in UNOPENED. -/
theorem connectStartsFromUnopened : Obligations.ConnectStartsFromUnopened := fun _ => exec_connect_unopened

theorem exec_connect_ready {s : State} (hl : s.link = .ready) :
    exec .connect s = .next (s.complete s.cur.agent 0#32) := by
  simp only [exec, execConnect, hl]

theorem exec_connect_refused {s : State} (hl : s.link = .opening ∨ s.link = .handshaking ∨ s.link = .closed) :
    exec .connect s = .next s.refuse := by
  rcases hl with hl | hl | hl <;> simp only [exec, execConnect, hl]

/-- Settles O31: in READY a completion, in the other three link states a refusal. -/
theorem connectOutsideUnopened : Obligations.ConnectOutsideUnopened := fun _ =>
  ⟨fun hl => exec_connect_ready hl, fun hl => exec_connect_refused hl⟩

theorem exec_close_connecting {s : State} (hl : s.link = .opening ∨ s.link = .handshaking) :
    exec .close s =
      .next ((s.enterClosed (some (errorRsp (.connectionFailed .closed)))).complete s.cur.agent 0#32) := by
  rcases hl with hl | hl <;> simp only [exec, execClose, hl]

theorem exec_close_quiet {s : State} (hl : s.link = .unopened ∨ s.link = .ready) :
    exec .close s = .next ((s.enterClosed none).complete s.cur.agent 0#32) := by
  rcases hl with hl | hl <;> simp only [exec, execClose, hl]

theorem exec_close_closed {s : State} (hl : s.link = .closed) :
    exec .close s = .next (s.complete s.cur.agent 0#32) := by
  simp only [exec, execClose, hl]

/-- Settles O41: the three kinds of link state, with the entry into CLOSED field by field. -/
theorem closeEntersClosed : Obligations.CloseEntersClosed := by
  intro s
  refine ⟨fun hl => ?_, fun hl => ?_, fun hl => exec_close_closed hl⟩
  · rw [exec_close_connecting hl, enterClosed_eq]
    rfl
  · rw [exec_close_quiet hl, enterClosed_eq]
    rfl

theorem exec_cancel_connecting {s : State} (hc : s.connecting = true) :
    exec .cancel s = .next ({ s with cancelReq := true }.complete s.cur.agent 1#32) := by
  simp only [exec, execCancel, hc, if_true]

theorem exec_cancel_quiet {s : State} (hc : s.connecting = false) :
    exec .cancel s = .next (s.complete s.cur.agent 0#32) := by
  simp [exec, execCancel, hc]

/-- Settles O42: in OPENING and HANDSHAKING a connect is in progress, in the other three link states none is. -/
theorem cancelRegisters : Obligations.CancelRegisters := by
  intro s
  refine ⟨fun hl => exec_cancel_connecting ((connecting_iff s).2 hl), fun hl => exec_cancel_quiet ?_⟩
  rcases hl with hl | hl | hl <;> simp [State.connecting, hl]

/-! ### The held CONNECT -/

theorem connDone_posted {s : State} {a : Issuer} {r : Rsp} (ha : s.connCaller = some a) (hr : s.connResult = some r) :
    connDone s = .next ({ s with connCaller := none, connResult := none }.respond a r) := by
  simp only [connDone, ha, hr]

/-- Outside READY a posted result reports a failure: while a connect is in progress none is posted, and in UNOPENED no
CONNECT is held. -/
theorem LinkInv.posted_reportsFailure {s : State} (h : LinkInv s) (hl : s.link ≠ .ready) {r : Rsp}
    (hr : s.connResult = some r) : r.reportsFailure := by
  have hquiet : s.connecting = false := by
    by_contra hc
    simp [(h.caller (by simpa using hc)).2] at hr
  have hheld : s.connCaller.isSome = true := h.result (by simp [hr])
  cases hlink : s.link with
  | unopened => simp [(h.unopened hlink).1] at hheld
  | opening => simp [State.connecting, hlink] at hquiet
  | handshaking => simp [State.connecting, hlink] at hquiet
  | ready => exact absurd hlink hl
  | closed => exact h.result_closed hlink r hr

/-- Settles O32: what may be posted in each link state is part of the invariant. -/
theorem connectCompletion : Obligations.ConnectCompletion := by
  intro s a hinv ha
  refine ⟨by simp [State.enabled, ha, Option.isSome_iff_ne_none], fun r hr => ⟨connDone_posted ha hr, ?_, ?_⟩⟩
  · exact fun hl => hinv.result_ready hl r hr
  · exact fun hl => hinv.posted_reportsFailure hl hr

/-! ### The cancel step and the delay ends -/

theorem cancelReady_iff (s : State) : s.cancelReady = true ↔ s.cancelReq = true ∧ s.connecting = true :=
  Bool.and_eq_true_iff

/-- Settles O43: the enabling condition by `cancelReady_iff`, the effect as an entry into CLOSED. -/
theorem cancelStepEndsConnect : Obligations.CancelStepEndsConnect := by
  intro s
  refine ⟨?_, ?_⟩
  · rw [← connecting_iff]
    exact cancelReady_iff s
  · rw [cancelStep, enterClosed_eq]
    rfl

theorem tmrStep_poll {s : State} (ht : s.tmr = some .poll) :
    tmrStep s = .next { s with tmr := none, phase := .readMode } := by
  simp only [tmrStep, ht]

theorem tmrStep_cooldown {s : State} (ht : s.tmr = some .cooldown) :
    tmrStep s = .next { s with tmr := none, attempt := s.attempt + 1#2, phase := .openPort } := by
  simp only [tmrStep, ht]

/-- A delay end needs a delay to go on, and no cancel request. -/
theorem tmrReady_of_not_inDelay {s : State} (h : ¬ s.inDelay) : s.tmrReady = false := by
  obtain ⟨hdelay, hcool⟩ := not_or.1 h
  simp [State.tmrReady, hdelay, hcool]

theorem tmrReady_of_cancelReq {s : State} (h : s.cancelReq = true) : s.tmrReady = false := by
  simp [State.tmrReady, h]

/-- Settles O38: the delay that goes on says which end the timer gives. -/
theorem delayEnds : Obligations.DelayEnds := by
  intro s
  refine ⟨fun hp ht hc => ⟨?_, tmrStep_poll ht⟩, fun hp ht hc => ⟨?_, tmrStep_cooldown ht⟩⟩
  · simp [State.enabled, State.tmrReady, hp, ht, hc]
  · simp [State.enabled, State.tmrReady, hp, ht, hc]

/-! ### When SEQ and TMR have a step (R144) -/

theorem seqReady_readMode {s : State} (hp : s.phase = .readMode) : s.seqReady = (!s.cancelReq && s.popReady) := by
  simp only [State.seqReady, hp]

/-- In the phases that wait for nothing SEQ has its step (R145 to R147). -/
theorem LinkInv.seqReady {s : State} (h : LinkInv s)
    (hp : s.phase = .openPort ∨ s.phase = .sendStart ∨ s.phase = .sendQuery) : s.seqReady = true := by
  rcases hp with hp | hp | hp
  · simp [State.seqReady, hp, h.opening_iff.2 (.inl hp)]
  · simp [State.seqReady, hp]
  · simp [State.seqReady, hp]

/-- SEQ is busy exactly while a connect is in progress (R144). -/
theorem LinkInv.connecting_iff_phase {s : State} (h : LinkInv s) : s.connecting = true ↔ s.phase ≠ .idle := by
  rw [connecting_iff, h.opening_iff, h.handshaking_iff]
  cases s.phase <;> decide

theorem LinkInv.cancelReady_of_busy {s : State} (h : LinkInv s) (hp : s.phase ≠ .idle) :
    s.cancelReady = s.cancelReq := by
  rw [State.cancelReady, h.connecting_iff_phase.2 hp, Bool.and_true]

/-- Settles O33: the cancel step goes with the request, the delay end with the delay, and SEQ's own step with the
phase. -/
theorem sequencerDiscipline : Obligations.SequencerDiscipline := by
  intro s answer d h
  refine ⟨fun hp => ?_, fun hp => ?_, fun hp => ?_⟩
  · have hquiet : s.connecting = false := Bool.eq_false_iff.2 fun hc => h.connecting_iff_phase.1 hc hp
    have hnodelay : ¬ s.inDelay := fun hd => hd.not_idle hp
    exact ⟨by simp [State.enabled, State.seqReady, hp], by simp [State.enabled, State.cancelReady, hquiet],
      tmrReady_of_not_inDelay hnodelay⟩
  · have hbusy : s.phase ≠ .idle := by rcases hp with hp | hp | hp <;> simp [hp]
    have hnodelay : ¬ s.inDelay := by rcases hp with hp | hp | hp <;> simp [State.inDelay, hp]
    exact ⟨h.seqReady hp, tmrReady_of_not_inDelay hnodelay, h.cancelReady_of_busy hbusy⟩
  · have hbusy : s.phase ≠ .idle := by rcases hp with hp | hp | hp <;> simp [hp]
    have hcancel : s.enabled .cancelStep = s.cancelReq := h.cancelReady_of_busy hbusy
    refine ⟨fun hc => ⟨hcancel.trans hc, ?_, tmrReady_of_cancelReq hc⟩,
      fun hc => ⟨hcancel.trans hc, fun hm => ?_, fun hm => ⟨?_, ?_⟩⟩⟩
    · rcases hp with hp | hp | hp <;> simp [State.enabled, State.seqReady, hp, hc]
    · have hd : s.inDelay := hp.imp_right fun hp => hp.resolve_left hm
      exact ⟨hd.seqReady, h.tmrReady_of_inDelay hd hc⟩
    · exact tmrReady_of_not_inDelay (by simp [State.inDelay, hm])
    · simp [State.enabled, seqReady_readMode hm, hc, State.popReady]

/-! ### The step of SEQ, one equation for each phase -/

section Phases

variable {s : State} (answer : Bool) (d : WriteDraw)

theorem seqStep_openPort (hp : s.phase = .openPort) : seqStep answer d s = .next (s.openStep answer) := by
  simp only [seqStep, hp]

theorem seqStep_sendStart (hp : s.phase = .sendStart) : seqStep answer d s = .next (s.sendStartStep d) := by
  simp only [seqStep, hp]

theorem seqStep_sendQuery (hp : s.phase = .sendQuery) : seqStep answer d s = .next (s.sendQueryStep d) := by
  simp only [seqStep, hp]

/-- The mode read takes PASSIVE (R149, R150). -/
theorem seqStep_readMode_passive {b : Byte} {q : List Byte} (hp : s.phase = .readMode) (hinv : FifoInv s)
    (hq : s.queue = b :: q) (hb : b = s.cfg.passive) :
    seqStep answer d s = .next { s.taken b with link := .ready, phase := .idle, connResult := some okRsp } := by
  simp only [seqStep, hp, State.readModeStep, fifoPop_cons hinv hq]
  exact congrArg _ (if_pos hb)

/-- The mode read takes another byte than PASSIVE (R149, R150). -/
theorem seqStep_readMode_other {b : Byte} {q : List Byte} (hp : s.phase = .readMode) (hinv : FifoInv s)
    (hq : s.queue = b :: q) (hb : b ≠ s.cfg.passive) :
    seqStep answer d s = .next { s.taken b with phase := .sendQuery } := by
  simp only [seqStep, hp, State.readModeStep, fifoPop_cons hinv hq]
  exact congrArg _ (if_neg hb)

end Phases

/-! ### The OPEN step (R145) -/

/-- Settles O35: the two answers of HOST; the attempt takes no part in it. -/
theorem openStepEffect : Obligations.OpenStepEffect := by
  intro s d hp _
  refine ⟨rfl, ?_, ?_⟩
  · rw [seqStep_openPort _ _ hp, openStep_true]
  · rw [seqStep_openPort _ _ hp, openStep_false, enterClosed_eq]
    rfl

/-! ### The handshake writes (R146, R147, R151, R152) -/

theorem sendStartStep_fail (s : State) (k : Nat) :
    s.sendStartStep (.fail k) = (s.txWrite [s.cfg.startOp] (.fail k)).attemptFail := rfl

theorem sendQueryStep_fail (s : State) (k : Nat) :
    s.sendQueryStep (.fail k) = (s.txWrite [s.cfg.queryOp, s.cfg.modePkt] (.fail k)).attemptFail := rfl

/-- Settles O36: the equation of SEQ in each of the two phases, with the draw that succeeds. -/
theorem handshakeWritesSucceed : Obligations.HandshakeWritesSucceed := by
  intro s answer
  exact ⟨fun hp => ⟨_, seqStep_sendStart answer .ok hp, rfl⟩, fun hp => ⟨_, seqStep_sendQuery answer .ok hp, rfl⟩⟩

/-- Of a failed write the drawn number of bytes reaches the wire, where it is less than all of them
(43_typed_write.md R205). -/
theorem wireCount_fail {n k : Nat} (hk : k < n) : wireCount n (.fail k) = k :=
  Nat.min_eq_left (Nat.le_sub_one_of_lt hk)

theorem txWrite_fail_tev (s : State) {bs : List Byte} {k : Nat} (hk : k < bs.length) :
    (s.txWrite bs (.fail k)).tev = s.tev ++ [TEvent.write bs k] := by
  rw [State.txWrite_tev, wireCount_fail hk]

/-- While attempts are left a failed attempt is followed by a cooldown (R151). -/
theorem attemptFail_retry {s : State} (h : s.attempt.toNat < s.cfg.maxAttempts.toNat) :
    s.attemptFail =
      { s with
        tev := s.tev ++ [TEvent.close]
        handle := false
        link := .opening
        phase := .cooldown
        tmr := some .cooldown } := by
  rw [attemptFail_eq, if_pos h]

/-- The last attempt's failure ends the connect (R152). -/
theorem attemptFail_exhausted {s : State} (h : s.cfg.maxAttempts.toNat ≤ s.attempt.toNat) :
    s.attemptFail =
      { s with tev := s.tev ++ [TEvent.close], handle := false }.closedWith
        (some (errorRsp (.connectionFailed .attemptsExhausted))) := by
  rw [attemptFail_eq, if_neg (Nat.not_lt.2 h), enterClosed_eq]

/-- In the phase of a handshake write that writes `bs`, a failed write fails the attempt. -/
theorem seqStep_write_fails {s : State} {bs : List Byte} (answer : Bool) (k : Nat)
    (hp : (s.phase = .sendStart ∧ bs = [s.cfg.startOp]) ∨
      (s.phase = .sendQuery ∧ bs = [s.cfg.queryOp, s.cfg.modePkt])) :
    seqStep answer (.fail k) s = .next (s.txWrite bs (.fail k)).attemptFail := by
  rcases hp with ⟨hp, rfl⟩ | ⟨hp, rfl⟩
  · rw [seqStep_sendStart _ _ hp, sendStartStep_fail]
  · rw [seqStep_sendQuery _ _ hp, sendQueryStep_fail]

/-- Settles O37: both writes fail by `attemptFail`, which splits on the attempts left. -/
theorem handshakeWriteFails : Obligations.HandshakeWriteFails := by
  intro s answer k bs hp hk
  refine ⟨_, seqStep_write_fails answer k hp, fun hleft => ?_, fun hnone => ?_⟩
  · rw [attemptFail_retry (s := s.txWrite bs (.fail k)) hleft, txWrite_fail_tev s hk, List.append_assoc]
    rfl
  · rw [attemptFail_exhausted (s := s.txWrite bs (.fail k)) hnone, txWrite_fail_tev s hk, List.append_assoc]
    rfl

/-! ### The mode read (R149, R150) and the poll round (R157) -/

/-- In READ_MODE SEQ waits for a byte (R149). -/
theorem seqReady_readMode_cons {s : State} {b : Byte} {q : List Byte} (hinv : FifoInv s) (hp : s.phase = .readMode)
    (hc : s.cancelReq = false) (hq : s.queue = b :: q) : s.seqReady = true := by
  have hpop : s.popReady = true := (popReady_iff hinv).2 (.inl (by simp [hq]))
  rw [seqReady_readMode hp, hc, hpop, Bool.not_false, Bool.and_true]

/-- Settles O39: PASSIVE or another byte, consumed by the POP in both cases. -/
theorem modeReadDecides : Obligations.ModeReadDecides := by
  intro s b q answer d hinv hp hc hq
  have hready : s.enabled (.seqStep answer d) = true := seqReady_readMode_cons hinv hp hc hq
  by_cases hb : b = s.cfg.passive
  · exact ⟨_, hready, seqStep_readMode_passive answer d hp hinv hq hb, queue_taken hinv hq, fun _ => rfl,
      fun hother => absurd hb hother⟩
  · exact ⟨_, hready, seqStep_readMode_other answer d hp hinv hq hb, queue_taken hinv hq,
      fun hpassive => absurd hpassive hb, fun _ => rfl⟩

/-- Settles O40: the query's success arms the poll delay, its end leads to the mode read, and that takes the byte. -/
theorem pollRoundRepeats : Obligations.PollRoundRepeats := by
  intro s b q a₁ a₂ d₂ hinv hl hp hc hq hother
  have hkept : FifoInv { s.sendQueryStep .ok with tmr := none, phase := .readMode } := hinv.of_fifoView rfl
  have hsent := seqStep_sendQuery a₁ .ok hp
  have hended := tmrStep_poll (s := s.sendQueryStep .ok) rfl
  have hread := seqStep_readMode_other a₂ d₂ rfl hkept hq hother
  refine ⟨_, _, _, hsent, hended, hread, hl, rfl, hc, rfl, ?_, ?_, rfl⟩
  · exact queue_taken hkept hq
  · exact (hkept.taken hq).of_fifoView rfl

end Sys2Proof.Machine

/-! The control state of the Link Controller (41_link_control.md R160): what each step does to the link state, the phase
and the cancel request. A step that leaves them alone is of no interest here; each of the others is a row of the
transition table or registers a cancel request. -/

namespace Sys2Proof.Machine

/-! ### The view -/

/-- The link state, the phase and the cancel request. -/
def State.control (s : State) : LinkState × Phase × Bool := (s.link, s.phase, s.cancelReq)

theorem control_eq_iff {s : State} {l : LinkState} {p : Phase} {c : Bool} :
    s.control = (l, p, c) ↔ s.link = l ∧ s.phase = p ∧ s.cancelReq = c := by
  simp [State.control]

theorem control_of_linkView {s t : State} (e : t.linkView = s.linkView) : t.control = s.control := by
  simp only [State.linkView, Prod.mk.injEq] at e
  obtain ⟨-, hl, hp, -, -, hc, -⟩ := e
  exact control_eq_iff.2 ⟨hl, hp, hc⟩

/-! ### The operations -/

theorem enterClosed_control (s : State) (res : Option Rsp) : (s.enterClosed res).control = (.closed, .idle, false) := by
  simp [State.control]

theorem openStep_control (s : State) (answer : Bool) :
    (s.openStep answer).control =
      if answer then (.handshaking, .sendStart, s.cancelReq) else (.closed, .idle, false) := by
  cases answer with
  | true => rfl
  | false => exact enterClosed_control _ _

theorem sendStartStep_ok_control (s : State) :
    (s.sendStartStep .ok).control = (s.link, .sendQuery, s.cancelReq) := rfl

theorem sendQueryStep_ok_control (s : State) : (s.sendQueryStep .ok).control = (s.link, .delay, s.cancelReq) := rfl

theorem attemptFail_control (s : State) :
    s.attemptFail.control =
      if s.attempt.toNat < s.cfg.maxAttempts.toNat then (.opening, .cooldown, s.cancelReq)
      else (.closed, .idle, false) := by
  rw [attemptFail_eq]
  split
  · rfl
  · exact enterClosed_control _ _

theorem modeCompare_passive_control {s : State} {b : Byte} (hb : b = s.cfg.passive) :
    (s.modeCompare b).control = (.ready, .idle, s.cancelReq) := by
  rw [State.modeCompare, if_pos hb]
  rfl

theorem modeCompare_other_control {s : State} {b : Byte} (hl : s.link = .handshaking) (hb : b ≠ s.cfg.passive) :
    (s.modeCompare b).control = (.handshaking, .sendQuery, s.cancelReq) := by
  rw [State.modeCompare, if_neg hb, ← hl]
  rfl

/-! ### The commands and the agents' steps -/

/-- A command leaves the control state alone, unless it is a CONNECT from UNOPENED, a CLOSE or a CANCEL. -/
theorem exec_control {i : Instr} {s t : State} (hx : exec i s = .next t) :
    t.control = s.control ∨ (i = .connect ∧ s.link = .unopened ∧ t.control = (.opening, .openPort, false)) ∨
      (i = .close ∧ s.link ≠ .closed ∧ t.control = (.closed, .idle, false)) ∨
      (s.connecting = true ∧ t.control = (s.link, s.phase, true)) := by
  cases exec_cases hx with
  | pop b u hp ht => exact .inl (ht ▸ (control_of_linkView (fifoPop_linkView hp) :))
  | connect hl ht => exact .inr (.inl ⟨rfl, hl, ht ▸ rfl⟩)
  | close res hl hres ht => exact .inr (.inr (.inl ⟨rfl, hl, ht ▸ enterClosed_control s res⟩))
  | cancel hc ht => exact .inr (.inr (.inr ⟨hc, ht ▸ rfl⟩))
  | respond | refuse | same | burst | popHold | fclose | read | write => subst t; exact .inl rfl

theorem rxStep_control {s t : State} (hx : rxStep s = .next t) : t.control = s.control := by
  rcases rxStep_cases hx with ⟨rfl, -⟩ | ⟨r, b, -, -, ⟨-, rfl⟩ | ⟨-, rfl⟩ | ⟨-, rfl⟩⟩
  · rfl
  all_goals exact control_of_linkView (finishBurst_linkView _ _)

theorem ownStep_control {s t : State} (hx : ownStep s = .next t) : t.control = s.control := by
  rcases ownStep_cases hx with rfl | ⟨a, -, ⟨b, u, hp, rfl⟩ | ⟨-, rfl⟩⟩
  · rfl
  · exact control_of_linkView (fifoPop_linkView hp :)
  · rfl

theorem readStep_control {s t : State} (hx : readStep s = .next t) : t.control = s.control := by
  rcases readStep_cases hx with rfl | ⟨r, -, ⟨-, rfl⟩ | ⟨b, u, hp, ⟨v, -, rfl⟩ | ⟨-, rfl⟩⟩⟩
  · rfl
  · rfl
  all_goals exact (control_of_linkView (fifoPop_linkView hp) :)

theorem connDone_control {s t : State} (hx : connDone s = .next t) : t.control = s.control := by
  rcases connDone_cases hx with rfl | ⟨a, r, -, -, rfl⟩ <;> rfl

/-- What a step from `s` to `t` does to the control state. SEQ's own step and the delay end have their own inversion
lemmas, `seqStep_cases` and `tmrStep_cases`. -/
inductive ControlStep (s t : State) : Prop where
  | kept (e : t.control = s.control)
  | connect (c : Cmd) (hm : s.nextMove = .issue c) (hw : c.cw = encode .connect) (hl : s.link = .unopened)
      (e : t.control = (.opening, .openPort, false))
  | close (c : Cmd) (hm : s.nextMove = .issue c) (hw : c.cw = encode .close) (hl : s.link ≠ .closed)
      (e : t.control = (.closed, .idle, false))
  | request (hc : s.connecting = true) (e : t.control = (s.link, s.phase, true))
  | seq (answer : Bool) (d : WriteDraw) (hm : s.nextMove = .seqStep answer d) (he : s.advance.seqReady = true)
      (hx : seqStep answer d s.advance = .next t)
  | cancel (hm : s.nextMove = .cancelStep) (hc : s.connecting = true) (e : t.control = (.closed, .idle, false))
  | tmr (hm : s.nextMove = .tmrStep) (he : s.advance.tmrReady = true) (hx : tmrStep s.advance = .next t)

/-- A word that decodes to `i` is the word of `i` (30_encoding.md R85). -/
theorem eq_encode_of_decode {p : Port} {w : Half} {i : Instr} (h : decode p w = .command i) : w = encode i := by
  obtain ⟨-, -, -, -, hw⟩ := decode_command_iff_eq_encode.1 h
  exact hw

theorem step_control {s t : State} (hstep : step s = .next t) : ControlStep s t := by
  cases step_cases hstep with
  | hold he ht => exact .kept (ht ▸ rfl)
  | command c i hm he hd hx =>
    have hw : c.cw = encode i := eq_encode_of_decode hd
    rcases exec_control hx with e | ⟨rfl, hl, e⟩ | ⟨rfl, hl, e⟩ | ⟨hc, e⟩
    · exact .kept e
    · exact .connect c hm hw hl e
    · exact .close c hm hw hl e
    · exact .request hc e
  | illegal c why hm he hd ht => exact .kept (ht ▸ rfl)
  | rx hm he hx => exact .kept (rxStep_control hx :)
  | own hm ho he hx => exact .kept (ownStep_control hx :)
  | read hm hr he hx => exact .kept (readStep_control hx :)
  | conn hm hx => exact .kept (connDone_control hx :)
  | seq answer d hm he hx => exact .seq answer d hm he hx
  | cancel hm he ht => exact .cancel hm ((cancelReady_iff _).1 he).2 (ht ▸ enterClosed_control _ _)
  | tmr hm he hx => exact .tmr hm he hx

/-! ### A pending cancel request (R158) -/

/-- The link is CLOSED, or a connect is in progress with its cancel request pending. -/
def State.cancelHolds (s : State) : Prop :=
  s.link = .closed ∨ (s.cancelReq = true ∧ (s.link = .opening ∨ s.link = .handshaking))

theorem cancelHolds_of_closed {s : State} {p : Phase} {c : Bool} (e : s.control = (.closed, p, c)) : s.cancelHolds :=
  .inl (control_eq_iff.1 e).1

theorem cancelHolds_of_pending {s : State} {l : LinkState} {p : Phase} (e : s.control = (l, p, true))
    (hl : l = .opening ∨ l = .handshaking) : s.cancelHolds := by
  obtain ⟨rfl, -, hc⟩ := control_eq_iff.1 e
  exact .inr ⟨hc, hl⟩

theorem cancelHolds_attemptFail {s : State} (hc : s.cancelReq = true) : s.attemptFail.cancelHolds := by
  have e := attemptFail_control s
  split at e
  · exact cancelHolds_of_pending (hc ▸ e) (.inl rfl)
  · exact cancelHolds_of_closed e

/-- With a cancel request pending SEQ goes on, but it does not read the mode, the one step into READY. -/
theorem seqStep_cancelHolds {answer : Bool} {d : WriteDraw} {s t : State} (hc : s.cancelReq = true)
    (hl : s.link = .opening ∨ s.link = .handshaking) (he : s.seqReady = true) (hx : seqStep answer d s = .next t) :
    t.cancelHolds := by
  rcases seqStep_cases he hx with ⟨-, -, rfl⟩ | ⟨-, rfl⟩ | ⟨-, rfl⟩ | ⟨-, hnone, -⟩
  · cases answer with
    | true => exact .inr ⟨hc, .inr rfl⟩
    | false => exact cancelHolds_of_closed (openStep_control s false)
  · cases d with
    | ok => exact .inr ⟨hc, hl⟩
    | fail k => exact cancelHolds_attemptFail hc
  · cases d with
    | ok => exact .inr ⟨hc, hl⟩
    | fail k => exact cancelHolds_attemptFail hc
  · simp [hc] at hnone

/-- Settles O44: CONNECT has no effect in a connect, and neither the mode read nor the delay end is enabled with a
request pending; every other step keeps the request or enters CLOSED. -/
theorem cancelPreventsReady : Obligations.CancelPreventsReady := by
  intro s t hc hl hstep
  show t.cancelHolds
  cases step_control hstep with
  | kept e => exact cancelHolds_of_pending (e.trans (control_eq_iff.2 ⟨rfl, rfl, hc⟩)) hl
  | connect c hm hw hun e => simp [hun] at hl
  | close c hm hw hne e => exact cancelHolds_of_closed e
  | request hconn e => exact cancelHolds_of_pending e hl
  | seq answer d hm he hx => exact seqStep_cancelHolds (s := s.advance) hc hl he hx
  | cancel hm hconn e => exact cancelHolds_of_closed e
  | tmr hm he hx => simp [tmrReady_of_cancelReq (s := s.advance) hc] at he

/-! ### The rows of the transition table (R160) -/

/-- From every pair but that of CLOSED there is a row for CLOSE. -/
theorem close_row {l : LinkState} {p : Phase} (h : (l, p) ∈ legalPairs) (hl : l ≠ .closed) :
    { source := (l, p), event := .close, target := (.closed, .idle) : Transition } ∈ transitionTable := by
  revert h hl
  cases l <;> cases p <;> decide

/-- From every pair of a connect in progress there is a row for the cancel step. -/
theorem cancel_row {l : LinkState} {p : Phase} (h : (l, p) ∈ legalPairs) (hl : l = .opening ∨ l = .handshaking) :
    { source := (l, p), event := .cancel, target := (.closed, .idle) : Transition } ∈ transitionTable := by
  revert h hl
  cases l <;> cases p <;> decide

/-- The change of (link, phase) from `s` to `t` is the row of the event `e`, with the attempts as the row has them. -/
structure TakesRow (s t : State) (e : LinkEvent) : Prop where
  row : { source := (s.link, s.phase), event := e, target := (t.link, t.phase) : Transition } ∈ transitionTable
  retry : e = .writeFails → (t.link = .opening ↔ s.attempt.toNat < s.cfg.maxAttempts.toNat)
  counts : e = .tmr → s.phase = .cooldown → t.attempt.toNat = s.attempt.toNat + 1

/-- Taking the move off the schedule is no part of the row. -/
theorem TakesRow.of_advance {s t : State} {e : LinkEvent} (h : TakesRow s.advance t e) : TakesRow s t e :=
  ⟨h.row, h.retry, h.counts⟩

/-- For an event that is neither a failed write nor a delay end the row is all there is to show. -/
theorem TakesRow.of_control {s t : State} {e : LinkEvent} {l l' : LinkState} {p p' : Phase} {c : Bool}
    (hl : s.link = l) (hp : s.phase = p) (ht : t.control = (l', p', c))
    (hrow : { source := (l, p), event := e, target := (l', p') : Transition } ∈ transitionTable)
    (hw : e ≠ .writeFails := by decide) (htmr : e ≠ .tmr := by decide) : TakesRow s t e := by
  obtain ⟨hl', hp', -⟩ := control_eq_iff.1 ht
  exact ⟨by rwa [hl, hp, hl', hp'], fun h => absurd h hw, fun h => absurd h htmr⟩

/-- A failed handshake write: the cooldown exactly while attempts are left (R151, R152). -/
theorem takesRow_writeFails {s : State} (hl : s.link = .handshaking) (hp : s.phase = .sendStart ∨ s.phase = .sendQuery)
    (bs : List Byte) (d : WriteDraw) : TakesRow s (s.txWrite bs d).attemptFail .writeFails := by
  have e := attemptFail_control (s.txWrite bs d)
  split at e
  · rename_i hleft
    obtain ⟨hl', hp', -⟩ := control_eq_iff.1 e
    refine ⟨?_, fun _ => ⟨fun _ => hleft, fun _ => hl'⟩, by simp⟩
    rw [hl, hl', hp']
    rcases hp with hp | hp <;> rw [hp] <;> decide
  · rename_i hnone
    obtain ⟨hl', hp', -⟩ := control_eq_iff.1 e
    refine ⟨?_, fun _ => ⟨fun h => by simp [hl'] at h, fun h => absurd h hnone⟩, by simp⟩
    rw [hl, hl', hp']
    rcases hp with hp | hp <;> rw [hp] <;> decide

/-- The mode read takes the row of the byte it pops, the oldest of the queue (R149, R150). -/
theorem readModeStep_takesRow {answer : Bool} {d : WriteDraw} {s t : State} (hinv : FifoInv s)
    (hl : s.link = .handshaking) (hp : s.phase = .readMode) (hx : s.readModeStep = .next t)
    (hne : (t.link, t.phase) ≠ (s.link, s.phase)) :
    ∃ e, s.linkEvent (.seqStep answer d) = some e ∧ TakesRow s t e := by
  rcases readModeStep_cases hx with rfl | ⟨b, u, hpop, rfl⟩
  · exact absurd rfl hne
  · have hhead : s.queue.head? = some b := by rw [fifoPop_byte_queue hinv hpop, List.head?_cons]
    obtain ⟨-, -, -, rfl⟩ := fifoPop_byte hpop
    by_cases hb : b = s.cfg.passive
    · have e := modeCompare_passive_control (s := s.taken b) hb
      exact ⟨.modePassive, by simp [State.linkEvent, hp, hhead, hb], .of_control hl hp e (by decide)⟩
    · have e := modeCompare_other_control (s := s.taken b) hl hb
      exact ⟨.modeOther, by simp [State.linkEvent, hp, hhead, hb], .of_control hl hp e (by decide)⟩

/-- The phase step of SEQ takes the row of its phase and of HOST's draw or the mode byte. -/
theorem seqStep_takesRow {answer : Bool} {d : WriteDraw} {s t : State} (hinv : FifoInv s) (h : LinkInv s)
    (he : s.seqReady = true) (hx : seqStep answer d s = .next t) (hne : (t.link, t.phase) ≠ (s.link, s.phase)) :
    ∃ e, s.linkEvent (.seqStep answer d) = some e ∧ TakesRow s t e := by
  rcases seqStep_cases he hx with ⟨hp, hl, rfl⟩ | ⟨hp, rfl⟩ | ⟨hp, rfl⟩ | ⟨hp, -, hread⟩
  · cases answer with
    | true => exact ⟨.openOk, by simp [State.linkEvent, hp], .of_control hl hp (openStep_control s true) (by decide)⟩
    | false =>
      exact ⟨.openFails, by simp [State.linkEvent, hp], .of_control hl hp (openStep_control s false) (by decide)⟩
  · have hl : s.link = .handshaking := h.handshaking_iff.2 (.inl hp)
    cases d with
    | ok =>
      exact ⟨.writeOk, by simp [State.linkEvent, hp],
        .of_control hl hp (hl ▸ sendStartStep_ok_control s) (by decide)⟩
    | fail k => exact ⟨.writeFails, by simp [State.linkEvent, hp], takesRow_writeFails hl (.inl hp) _ _⟩
  · have hl : s.link = .handshaking := h.handshaking_iff.2 (.inr (.inl hp))
    cases d with
    | ok =>
      exact ⟨.writeOk, by simp [State.linkEvent, hp],
        .of_control hl hp (hl ▸ sendQueryStep_ok_control s) (by decide)⟩
    | fail k => exact ⟨.writeFails, by simp [State.linkEvent, hp], takesRow_writeFails hl (.inr hp) _ _⟩
  · exact readModeStep_takesRow hinv (h.handshaking_iff.2 (.inr (.inr (.inr hp)))) hp hread hne

/-- After a cooldown an attempt is left, so the next attempt's two-bit number does not wrap. -/
theorem LinkInv.next_attempt {s : State} (h : LinkInv s) (hp : s.phase = .cooldown) :
    (s.attempt + 1#2).toNat = s.attempt.toNat + 1 := by
  have hlt := h.attempt_cooldown hp
  have hmax := s.cfg.maxAttempts.isLt
  rw [BitVec.toNat_add, BitVec.toNat_ofNat]
  omega

/-- The delay end takes the row of its delay. -/
theorem tmrStep_takesRow {s t : State} (h : LinkInv s) (he : s.tmrReady = true) (hx : tmrStep s = .next t) :
    TakesRow s t .tmr := by
  rcases tmrStep_cases he hx with ⟨-, ⟨hp, -, rfl⟩ | ⟨hp, -, rfl⟩⟩
  · have hl : s.link = .handshaking := h.handshaking_iff.2 (.inr (.inr (.inl hp)))
    exact ⟨by simp [hl, hp, transitionTable], by simp, fun _ hc => by simp [hp] at hc⟩
  · have hl : s.link = .opening := h.opening_iff.2 (.inr hp)
    exact ⟨by simp [hl, hp, transitionTable], by simp, fun _ _ => h.next_attempt hp⟩

/-- Every step that changes (link, phase) takes the row of its event. -/
theorem step_takesRow {s t : State} (hinv : FifoInv s) (h : LinkInv s) (hstep : step s = .next t)
    (hne : (t.link, t.phase) ≠ (s.link, s.phase)) : ∃ e, s.linkEvent s.nextMove = some e ∧ TakesRow s t e := by
  have hadv : LinkInv s.advance := h.of_linkView rfl
  cases step_control hstep with
  | kept e =>
    obtain ⟨hl, hp, -⟩ := control_eq_iff.1 e
    simp [hl, hp] at hne
  | connect c hm hw hl e =>
    have hp : s.phase = .idle := h.idle (by simp [State.connecting, hl])
    exact ⟨.connect, by simp [hm, State.linkEvent, hw], .of_control hl hp e (by decide)⟩
  | close c hm hw hl e =>
    have hwords : encode .close ≠ encode .connect := by decide
    exact ⟨.close, by simp [hm, State.linkEvent, hw, hwords], .of_control rfl rfl e (close_row h.pair hl)⟩
  | request hc e =>
    obtain ⟨hl, hp, -⟩ := control_eq_iff.1 e
    simp [hl, hp] at hne
  | seq answer d hm he hx =>
    rw [hm]
    obtain ⟨e, hevent, hrow⟩ := seqStep_takesRow (s := s.advance) (hinv.of_fifoView rfl) hadv he hx hne
    exact ⟨e, hevent, hrow.of_advance⟩
  | cancel hm hc e =>
    exact ⟨.cancel, by rw [hm]; rfl, .of_control rfl rfl e (cancel_row h.pair ((connecting_iff s).1 hc))⟩
  | tmr hm he hx => exact ⟨.tmr, by rw [hm]; rfl, (tmrStep_takesRow hadv he hx).of_advance⟩

/-- Settles O45: the inversion of a step by its effect on the control state, row by row. -/
theorem transitionsAreInTable : Obligations.TransitionsAreInTable := by
  intro s t hinv h _ hstep hne
  obtain ⟨e, hevent, hrow, hretry, hcounts⟩ := step_takesRow hinv h hstep hne
  exact ⟨e, hevent, hrow, hretry, hcounts⟩

end Sys2Proof.Machine

/-! The value a typed read answers (42_typed_read.md R181 to R184, R189): sign and zero extension of a field of any
width, and the two bytes of a word. -/

namespace Sys2Proof.Machine

/-! ### Sign and zero extension, at any width -/

section Extension

variable {w n : Nat}

theorem toInt_setWidth_eq_toNat (h : w < n) (x : BitVec w) : (x.setWidth n).toInt = x.toNat := by
  have hpow : 2 * 2 ^ w ≤ 2 ^ n := by
    rw [← Nat.pow_succ']
    exact Nat.pow_le_pow_right (by decide) h
  have hx : (x.setWidth n).toNat = x.toNat := BitVec.toNat_setWidth_of_le h.le
  rw [BitVec.toInt_eq_toNat_of_lt (by have := x.isLt; omega), hx]

/-- Below the sign bit both extensions are the same word. -/
theorem signExtend_eq_setWidth_of_low {x : BitVec w} (h : 2 * x.toNat < 2 ^ w) : x.signExtend n = x.setWidth n :=
  BitVec.signExtend_eq_setWidth_of_msb_false (BitVec.msb_eq_false_iff_two_mul_lt.2 h)

/-- From the sign bit on they differ by the range's size. -/
theorem toInt_setWidth_of_high (hw : w < n) {x : BitVec w} (h : 2 ^ w ≤ 2 * x.toNat) :
    (x.setWidth n).toInt = (x.signExtend n).toInt + (2 ^ w : Nat) := by
  rw [toInt_setWidth_eq_toNat hw, BitVec.toInt_signExtend_of_le hw.le, BitVec.toInt_eq_toNat_cond, if_neg (by omega)]
  omega

theorem setWidth_signExtend (h : w ≤ n) (x : BitVec w) : (x.signExtend n).setWidth w = x := by
  ext i hi
  simp [BitVec.getElem_signExtend, hi, show i < n by omega]

theorem setWidth_setWidth_self (h : w ≤ n) (x : BitVec w) : (x.setWidth n).setWidth w = x := by
  rw [BitVec.setWidth_setWidth_of_le x h, BitVec.setWidth_eq]

theorem signExtend_injective (h : w ≤ n) {x y : BitVec w} (e : x.signExtend n = y.signExtend n) : x = y := by
  rw [← setWidth_signExtend h x, e, setWidth_signExtend h]

theorem setWidth_injective (h : w ≤ n) {x y : BitVec w} (e : x.setWidth n = y.setWidth n) : x = y := by
  rw [← setWidth_setWidth_self h x, e, setWidth_setWidth_self h]

theorem exists_signExtend_toInt_iff (hpos : 0 < w) (h : w ≤ n) (v : Int) :
    (∃ x : BitVec w, (x.signExtend n).toInt = v) ↔ -2 ^ (w - 1) ≤ v ∧ v ≤ 2 ^ (w - 1) - 1 := by
  simp only [BitVec.toInt_signExtend_of_le h, Int.le_sub_one_iff]
  constructor
  · rintro ⟨x, rfl⟩
    exact ⟨x.le_toInt, x.toInt_lt⟩
  · rintro ⟨hlo, hhi⟩
    exact ⟨BitVec.ofInt w v, BitVec.toInt_ofInt_eq_self hpos hlo hhi⟩

theorem exists_setWidth_toInt_iff (h : w < n) (v : Int) :
    (∃ x : BitVec w, (x.setWidth n).toInt = v) ↔ 0 ≤ v ∧ v ≤ 2 ^ w - 1 := by
  simp only [toInt_setWidth_eq_toNat h, Int.le_sub_one_iff]
  constructor
  · rintro ⟨x, rfl⟩
    exact ⟨Int.natCast_nonneg _, mod_cast x.isLt⟩
  · rintro ⟨hlo, hhi⟩
    lift v to Nat using hlo
    exact ⟨BitVec.ofNat w v, by rw [BitVec.toNat_ofNat, Nat.mod_eq_of_lt (mod_cast hhi)]⟩

end Extension

/-! ### The two bytes of a word (20_memory.md R52) -/

theorem joinBytes_toNat (hi lo : Byte) : (joinBytes hi lo).toNat = 256 * hi.toNat + lo.toNat := by
  rw [joinBytes, BitVec.toNat_append, ← Nat.shiftLeft_add_eq_or_of_lt lo.isLt, Nat.shiftLeft_eq, Nat.mul_comm]

theorem joinBytes_injective {hi lo hi' lo' : Byte} (h : joinBytes hi lo = joinBytes hi' lo') :
    hi = hi' ∧ lo = lo' := by
  have hnat := congrArg BitVec.toNat h
  rw [joinBytes_toNat, joinBytes_toNat] at hnat
  constructor <;> apply BitVec.eq_of_toNat_eq <;> omega

/-- Every word is the join of its two bytes. -/
theorem exists_joinBytes_iff (P : Half → Prop) : (∃ hi lo : Byte, P (joinBytes hi lo)) ↔ ∃ h, P h := by
  refine ⟨fun ⟨hi, lo, hp⟩ => ⟨_, hp⟩, fun ⟨h, hp⟩ => ⟨h.extractLsb' 8 8, h.extractLsb' 0 8, ?_⟩⟩
  have hjoin : joinBytes (h.extractLsb' 8 8) (h.extractLsb' 0 8) = h :=
    (BitVec.extractLsb'_append_extractLsb'_eq_extractLsb' rfl).trans BitVec.extractLsb'_eq_self
  rwa [hjoin]

/-- Settles O54: the facts about extension at widths 8 and 16, and the two bytes of a word. -/
theorem signedAndUnsignedReads : Obligations.SignedAndUnsignedReads := by
  refine ⟨by decide, fun b hlow => ?_, fun b hhigh => ?_, fun h hlow => ?_, fun h hhigh => ?_, fun v => ?_, fun v => ?_,
    fun v => ?_, fun v => ?_, fun b b' hsame => ?_, fun hi lo hi' lo' hsame => ?_⟩
  · exact signExtend_eq_setWidth_of_low (by omega)
  · exact toInt_setWidth_of_high (by decide) (by omega)
  · exact signExtend_eq_setWidth_of_low (by omega)
  · exact toInt_setWidth_of_high (by decide) (by omega)
  · exact exists_signExtend_toInt_iff (w := 8) (n := 32) (by decide) (by decide) v
  · exact exists_setWidth_toInt_iff (w := 8) (n := 32) (by decide) v
  · rw [exists_joinBytes_iff fun h => (sextHalf h).toInt = v]
    exact exists_signExtend_toInt_iff (w := 16) (n := 32) (by decide) (by decide) v
  · rw [exists_joinBytes_iff fun h => (zextHalf h).toInt = v]
    exact exists_setWidth_toInt_iff (w := 16) (n := 32) (by decide) v
  · exact hsame.elim (signExtend_injective (by decide)) (setWidth_injective (by decide))
  · exact joinBytes_injective (hsame.elim (signExtend_injective (by decide)) (setWidth_injective (by decide)))

end Sys2Proof.Machine

/-! The typed reads (42_typed_read.md R180 to R188) and the refusals of typed commands: the issue step of a typed
command by its kind, then one equation for each case of the pop step. -/

namespace Sys2Proof.Machine

/-! ### The issue step -/

theorem typedAllowed_iff (s : State) : s.typedAllowed = true ↔ s.link = .ready ∨ s.link = .closed := by
  simp [State.typedAllowed]

theorem exec_typedRead {i : Instr} {k : ReadKind} (hi : readKindOf i = some k) (s : State) :
    exec i s = .next (s.startRead k) := by
  cases i <;> cases hi <;> rfl

theorem exec_typedWrite {i : Instr} {s : State} {c : OperandCheck} (hi : s.writeCheck i = some c) :
    exec i s = .next (s.typedWrite c) := by
  cases i <;> cases hi <;> rfl

theorem exec_typedRead_starts {i : Instr} {k : ReadKind} {s : State} (hi : readKindOf i = some k)
    (hl : s.link = .ready ∨ s.link = .closed) (hrd : s.rd = none) :
    exec i s = .next { s with rd := some { agent := s.cur.agent, kind := k, hi := none } } := by
  rw [exec_typedRead hi]
  rcases startRead_cases s k with ⟨-, hforbidden | hbusy⟩ | ⟨hstart, -, -⟩
  · simp [(typedAllowed_iff s).2 hl] at hforbidden
  · simp [hrd] at hbusy
  · rw [hstart]

/-- Settles O47: the issue step of the four reads. -/
theorem typedReadStarts : Obligations.TypedReadStarts := fun _ _ _ => exec_typedRead_starts

theorem startRead_refused {s : State} (k : ReadKind) (h : s.typedAllowed = false ∨ s.rd ≠ none) :
    s.startRead k = s.refuse := by
  rcases startRead_cases s k with ⟨hrefuse, -⟩ | ⟨-, hallowed, hfree⟩
  · exact hrefuse
  · simp [hallowed, hfree] at h

theorem typedWrite_refused {s : State} (c : OperandCheck) (h : s.typedAllowed = false) :
    s.typedWrite c = s.refuse := by
  simp [State.typedWrite, h]

theorem typedAllowed_of_not_ready {s : State} (hl : s.link = .unopened ∨ s.link = .opening ∨ s.link = .handshaking) :
    s.typedAllowed = false := by
  rcases hl with hl | hl | hl <;> simp [State.typedAllowed, hl]

/-- Settles O48: a read is refused on either ground, a write before READY only. -/
theorem typedCommandsRefused : Obligations.TypedCommandsRefused := by
  rintro i s (⟨hread | hwrite, hl⟩ | ⟨hread, hbusy⟩)
  · obtain ⟨k, hk⟩ := Option.ne_none_iff_exists'.1 hread
    rw [exec_typedRead hk, startRead_refused k (.inl (typedAllowed_of_not_ready hl))]
    rfl
  · obtain ⟨c, hc⟩ := Option.ne_none_iff_exists'.1 hwrite
    rw [exec_typedWrite hc, typedWrite_refused c (typedAllowed_of_not_ready hl)]
    rfl
  · obtain ⟨k, hk⟩ := Option.ne_none_iff_exists'.1 hread
    rw [exec_typedRead hk, startRead_refused k (.inr hbusy)]
    rfl

/-! ### The value of the last byte (R181 to R184) -/

theorem readValue_s8 (h : Option Byte) (b : Byte) : readValue .s8 h b = some (BitVec.ofInt 32 b.toInt) := rfl

theorem readValue_u8 (h : Option Byte) (b : Byte) : readValue .u8 h b = some (BitVec.ofNat 32 b.toNat) :=
  congrArg some (BitVec.ofNat_toNat 32 b).symm

theorem readValue_s16 (hi b : Byte) : readValue .s16 (some hi) b = some (BitVec.ofInt 32 (hi ++ b).toInt) := rfl

theorem readValue_u16 (hi b : Byte) :
    readValue .u16 (some hi) b = some (BitVec.ofNat 32 (256 * hi.toNat + b.toNat)) := by
  rw [← joinBytes_toNat, BitVec.ofNat_toNat]
  rfl

theorem readValue_first {k : ReadKind} (hk : k = .s16 ∨ k = .u16) (b : Byte) : readValue k none b = none := by
  rcases hk with rfl | rfl <;> rfl

/-- Both extensions of a word keep its 16 bits. -/
theorem readValue_word_low {k : ReadKind} (hk : k = .s16 ∨ k = .u16) (hi b : Byte) :
    ∃ v, readValue k (some hi) b = some v ∧ BitVec.setWidth 16 v = joinBytes hi b := by
  rcases hk with rfl | rfl
  · exact ⟨_, rfl, setWidth_signExtend (by decide) _⟩
  · exact ⟨_, rfl, setWidth_setWidth_self (by decide) _⟩

/-! ### The pop step -/

section PopStep

variable {s : State} {r : ReadRec} {b : Byte} {q : List Byte} (hrd : s.rd = some r)

include hrd

theorem readStep_answers {v : Word} (hinv : FifoInv s) (hq : s.queue = b :: q) (hv : readValue r.kind r.hi b = some v) :
    readStep s = .next ({ s.taken b with rd := none }.complete r.agent v) := by
  simp only [readStep, hrd, fifoPop_cons hinv hq, hv]

theorem readStep_keeps_high (hinv : FifoInv s) (hq : s.queue = b :: q) (hv : readValue r.kind r.hi b = none) :
    readStep s = .next { s.taken b with rd := some { r with hi := some b } } := by
  simp only [readStep, hrd, fifoPop_cons hinv hq, hv]

theorem readStep_closed (hempty : s.count = 0#16) (hclosed : s.fclosed = true) :
    readStep s = .next { s with rd := none, rsps := s.rsps ++ [(r.agent, { st := .channelClosed, val := 0#32 })] } := by
  simp only [readStep, hrd, fifoPop_nil hempty, hclosed, if_true]
  rfl

theorem enabled_readStep_of_closed (hclosed : s.fclosed = true) : s.enabled .readStep = true := by
  simp [State.enabled, State.popReady, hrd, hclosed]

/-- What the pop step of a read does with the oldest byte, whether it is the read's last or not. -/
theorem readStep_takes (hinv : FifoInv s) (hq : s.queue = b :: q) :
    ∃ t, readStep s = .next t ∧ t.queue = q ∧
      t = { s with
            head := t.head
            count := t.count
            popped := s.popped ++ [b]
            rd := t.rd
            rsps := t.rsps } ∧
      (∀ v, readValue r.kind r.hi b = some v →
        t.rd = none ∧ t.rsps = s.rsps ++ [(r.agent, { st := .ok, val := v })]) ∧
      (readValue r.kind r.hi b = none → t.rd = some { r with hi := some b } ∧ t.rsps = s.rsps) := by
  cases hv : readValue r.kind r.hi b with
  | some v =>
    refine ⟨_, readStep_answers hrd hinv hq hv, queue_taken hinv hq, rfl, ?_, by simp⟩
    rintro v' ⟨⟩
    exact ⟨rfl, rfl⟩
  | none => exact ⟨_, readStep_keeps_high hrd hinv hq hv, queue_taken hinv hq, rfl, by simp, fun _ => ⟨rfl, rfl⟩⟩

end PopStep

/-- Settles O51: the pop step at the empty closed FIFO, and with a byte left. -/
theorem closeSplitsWordRead : Obligations.CloseSplitsWordRead := by
  intro s a k hi hk hrd hclosed
  refine ⟨fun hempty => readStep_closed hrd hempty hclosed, fun lo q hinv hq => ?_⟩
  obtain ⟨v, hv, hlow⟩ := readValue_word_low hk hi lo
  exact ⟨_, v, readStep_answers hrd hinv hq hv, rfl, queue_taken hinv hq, rfl, hlow⟩

/-- Settles O52: the byte by `readStep_takes` and the value of each kind, the empty FIFO by its closed mark, which a
CLOSE in READY sets. -/
theorem heldReadStep : Obligations.HeldReadStep := by
  intro s a k h hrd
  refine ⟨fun b q hinv hq => ?_, fun hempty hclosed => ⟨enabled_readStep_of_closed hrd hclosed, ?_⟩,
    fun hempty hopen => ?_, fun hempty hl => ?_⟩
  · obtain ⟨t, hstep, hqueue, hframe, hlast, hfirst⟩ := readStep_takes hrd hinv hq
    refine ⟨t, ?_, hstep, hqueue, hframe, ?_, ?_, ?_, ?_, ?_⟩
    · exact (enabled_readStep_iff hinv).2 ⟨by simp [hrd], .inl (by simp [hq])⟩
    · rintro rfl
      exact hlast _ (readValue_s8 h b)
    · rintro rfl
      exact hlast _ (readValue_u8 h b)
    · rintro hk rfl
      exact hfirst (readValue_first hk b)
    · rintro hi rfl rfl
      exact hlast _ (readValue_s16 hi b)
    · rintro hi rfl rfl
      exact hlast _ (readValue_u16 hi b)
  · exact readStep_closed hrd hempty hclosed
  · simp [State.enabled, State.popReady, hempty, hopen]
  · have hclose := exec_close_quiet (.inr hl)
    rw [enterClosed_eq] at hclose
    refine ⟨_, _, hclose, enabled_readStep_of_closed (r := ⟨a, k, h⟩) hrd rfl,
      readStep_closed (r := ⟨a, k, h⟩) hrd hempty rfl, rfl, ?_⟩
    exact List.append_assoc _ _ _

/-! ### A whole read -/

section WholeRead

variable {i : Instr} {k : ReadKind} {s : State} (hi : readKindOf i = some k)
  (hl : s.link = .ready ∨ s.link = .closed) (hrd : s.rd = none)

include hi hl hrd

/-- A read that the oldest byte completes: one pop step. -/
theorem read_completes_with_byte {b : Byte} {q : List Byte} {v : Word} (hv : readValue k none b = some v)
    (hinv : FifoInv s) (hq : s.queue = b :: q) :
    ∃ u t, exec i s = .next u ∧ readStep u = .next t ∧ t.queue = q ∧
      t = { s with
            head := t.head
            count := t.count
            popped := s.popped ++ [b]
            rsps := s.rsps ++ [(s.cur.agent, { st := .ok, val := v })] } := by
  refine ⟨_, _, exec_typedRead_starts hi hl hrd, readStep_answers rfl (hinv.of_fifoView rfl) hq hv,
    queue_taken hinv hq, ?_⟩
  simp only [State.taken, State.complete, State.respond, ← hrd]

/-- A read that keeps the oldest byte as its high byte and completes with the next one: two pop steps. -/
theorem read_completes_with_word {b lo : Byte} {q : List Byte} {v : Word} (hfirst : readValue k none b = none)
    (hv : readValue k (some b) lo = some v) (hinv : FifoInv s) (hq : s.queue = b :: lo :: q) :
    ∃ u x t, exec i s = .next u ∧ readStep u = .next x ∧ readStep x = .next t ∧
      x.rd = some { agent := s.cur.agent, kind := k, hi := some b } ∧ x.rsps = s.rsps ∧ t.queue = q ∧
      t = { s with
            head := t.head
            count := t.count
            popped := s.popped ++ [b, lo]
            rsps := s.rsps ++ [(s.cur.agent, { st := .ok, val := v })] } := by
  have hq' : (s.taken b).queue = lo :: q := queue_taken hinv hq
  have hinv' : FifoInv (s.taken b) := hinv.taken hq
  refine ⟨_, _, _, exec_typedRead_starts hi hl hrd, readStep_keeps_high rfl (hinv.of_fifoView rfl) hq hfirst,
    readStep_answers rfl (hinv'.of_fifoView rfl) hq' hv, rfl, rfl, queue_taken hinv' hq', ?_⟩
  simp [State.taken, State.complete, State.respond, hrd]

/-- A read issued at an empty closed FIFO: one pop step, and nothing held (R188). -/
theorem read_answers_closed (hempty : s.count = 0#16) (hclosed : s.fclosed = true) :
    ∃ u, exec i s = .next u ∧ u.enabled .readStep = true ∧
      readStep u = .next { s with rsps := s.rsps ++ [(s.cur.agent, { st := .channelClosed, val := 0#32 })] } := by
  have hstep := readStep_closed (s := { s with rd := some { agent := s.cur.agent, kind := k, hi := none } }) rfl
    hempty hclosed
  rw [← hrd] at hstep
  exact ⟨_, exec_typedRead_starts hi hl hrd, enabled_readStep_of_closed rfl hclosed, hstep⟩

end WholeRead

/-- Settles O49: a byte read completes with the oldest byte. -/
theorem byteReadsComplete : Obligations.ByteReadsComplete := fun _ b _ hinv hl hrd hq =>
  ⟨read_completes_with_byte rfl hl hrd (readValue_s8 none b) hinv hq,
    read_completes_with_byte rfl hl hrd (readValue_u8 none b) hinv hq⟩

/-- Settles O50: a word read completes with the two oldest bytes. -/
theorem wordReadsComplete : Obligations.WordReadsComplete := fun _ hi lo _ hinv hl hrd hq =>
  ⟨read_completes_with_word rfl hl hrd rfl (readValue_s16 hi lo) hinv hq,
    read_completes_with_word rfl hl hrd rfl (readValue_u16 hi lo) hinv hq⟩

/-- Settles O53: in CLOSED the FIFO of the whole block is closed, by `RoleInv`. -/
theorem readInClosedEmptyAnswers : Obligations.ReadInClosedEmptyAnswers := fun _ _ _ hi hrole hwhole hl hrd hempty =>
  read_answers_closed hi (.inr hl) hrd hempty ((hrole.closed_iff hwhole).2 hl)

end Sys2Proof.Machine

/-! The transport history (20_memory.md R63, 43_typed_write.md R206): the events each operation appends, of which at
most one is a write call. -/

namespace Sys2Proof.Machine

/-- From `s` to `t` events are appended to the transport history, and at most one of them is a write call. -/
def TevExtended (s t : State) : Prop := ∃ es, t.tev = s.tev ++ es ∧ es.countP TEvent.isWrite ≤ 1

theorem TevExtended.of_tev_eq {s t : State} (h : t.tev = s.tev) : TevExtended s t :=
  ⟨[], by rw [h, List.append_nil], by decide⟩

/-- What is on the wire is never taken back. -/
theorem TevExtended.wire_extended {s t : State} (h : TevExtended s t) : ∃ bs, wire t.tev = wire s.tev ++ bs := by
  obtain ⟨es, htev, -⟩ := h
  exact ⟨_, by rw [htev, wire_append]⟩

/-! ### The operations -/

theorem fifoPop_tev {s u : State} {b : Byte} (h : s.fifoPop = .byte b u) : u.tev = s.tev := by
  obtain ⟨-, -, -, rfl⟩ := fifoPop_byte h
  rfl

theorem modeCompare_tev (s : State) (b : Byte) : (s.modeCompare b).tev = s.tev := by
  unfold State.modeCompare
  split <;> rfl

/-- A failed attempt releases the handle once: the entry into CLOSED finds it released (R151, R152). -/
theorem attemptFail_tev (s : State) : s.attemptFail.tev = s.tev ++ [TEvent.close] := by
  rw [attemptFail_eq]
  split
  · rfl
  · exact (State.enterClosed_tev _ _).trans (List.append_nil _)

theorem tevExtended_enterClosed (s : State) (res : Option Rsp) : TevExtended s (s.enterClosed res) :=
  ⟨_, State.enterClosed_tev s res, by split <;> decide⟩

theorem tevExtended_openStep (s : State) (answer : Bool) : TevExtended s (s.openStep answer) := by
  cases answer with
  | true => exact ⟨[TEvent.opened true], rfl, by decide⟩
  | false =>
    refine ⟨TEvent.opened false :: if s.handle then [TEvent.flush, TEvent.close] else [], ?_, by split <;> decide⟩
    exact (State.enterClosed_tev _ _).trans (List.append_assoc _ _ _)

theorem tevExtended_txWrite (s : State) (bs : List Byte) (d : WriteDraw) : TevExtended s (s.txWrite bs d) :=
  ⟨_, State.txWrite_tev s bs d, by simp [TEvent.isWrite]⟩

/-- After a failed write the attempt ends, without a second write. -/
theorem tevExtended_write_fails (s : State) (bs : List Byte) (d : WriteDraw) :
    TevExtended s (s.txWrite bs d).attemptFail :=
  ⟨_, (attemptFail_tev _).trans (List.append_assoc _ _ _), by simp [List.countP_cons, TEvent.isWrite]⟩

theorem tevExtended_sendStartStep (s : State) (d : WriteDraw) : TevExtended s (s.sendStartStep d) := by
  cases d with
  | ok => exact (tevExtended_txWrite s _ .ok :)
  | fail k => exact tevExtended_write_fails s _ _

theorem tevExtended_sendQueryStep (s : State) (d : WriteDraw) : TevExtended s (s.sendQueryStep d) := by
  cases d with
  | ok => exact (tevExtended_txWrite s _ .ok :)
  | fail k => exact tevExtended_write_fails s _ _

/-! ### The commands and the agents' steps -/

theorem exec_tevExtended {i : Instr} {s t : State} (hx : exec i s = .next t) : TevExtended s t := by
  cases exec_cases hx with
  | write i bs d r hl ht => exact ht ▸ (tevExtended_txWrite s bs d :)
  | close res hl hr ht => exact ht ▸ (tevExtended_enterClosed s res :)
  | pop b u hp ht => exact ht ▸ .of_tev_eq (fifoPop_tev hp :)
  | respond | refuse | same | burst | popHold | fclose | connect | cancel | read =>
    subst t
    exact .of_tev_eq rfl

theorem rxStep_tev {s t : State} (hx : rxStep s = .next t) : t.tev = s.tev := by
  rcases rxStep_cases hx with ⟨rfl, -⟩ | ⟨r, b, -, -, ⟨-, rfl⟩ | ⟨-, rfl⟩ | ⟨-, rfl⟩⟩
  · rfl
  all_goals exact State.finishBurst_tev _ _

theorem ownStep_tev {s t : State} (hx : ownStep s = .next t) : t.tev = s.tev := by
  rcases ownStep_cases hx with rfl | ⟨a, -, ⟨b, u, hp, rfl⟩ | ⟨-, rfl⟩⟩
  · rfl
  · exact (fifoPop_tev hp :)
  · rfl

theorem readStep_tev {s t : State} (hx : readStep s = .next t) : t.tev = s.tev := by
  rcases readStep_cases hx with rfl | ⟨r, -, ⟨-, rfl⟩ | ⟨b, u, hp, ⟨v, -, rfl⟩ | ⟨-, rfl⟩⟩⟩
  · rfl
  · rfl
  all_goals exact (fifoPop_tev hp :)

theorem connDone_tev {s t : State} (hx : connDone s = .next t) : t.tev = s.tev := by
  rcases connDone_cases hx with rfl | ⟨a, r, -, -, rfl⟩ <;> rfl

theorem readModeStep_tev {s t : State} (hx : s.readModeStep = .next t) : t.tev = s.tev := by
  rcases readModeStep_cases hx with rfl | ⟨b, u, hp, rfl⟩
  · rfl
  · exact (modeCompare_tev u b).trans (fifoPop_tev hp)

theorem tmrStep_tev {s t : State} (he : s.tmrReady = true) (hx : tmrStep s = .next t) : t.tev = s.tev := by
  rcases tmrStep_cases he hx with ⟨-, ⟨-, -, rfl⟩ | ⟨-, -, rfl⟩⟩ <;> rfl

theorem seqStep_tevExtended {answer : Bool} {d : WriteDraw} {s t : State} (he : s.seqReady = true)
    (hx : seqStep answer d s = .next t) : TevExtended s t := by
  rcases seqStep_cases he hx with ⟨-, -, rfl⟩ | ⟨-, rfl⟩ | ⟨-, rfl⟩ | ⟨-, -, hread⟩
  · exact tevExtended_openStep s answer
  · exact tevExtended_sendStartStep s d
  · exact tevExtended_sendQueryStep s d
  · exact .of_tev_eq (readModeStep_tev hread)

/-- Taking the move off the schedule is no transport event, and neither is presenting a command. -/
theorem step_tevExtended {s t : State} (h : step s = .next t) : TevExtended s t := by
  show TevExtended s.advance t
  cases step_cases h with
  | hold he ht => exact ht ▸ .of_tev_eq rfl
  | command c i hm he hd hx => exact (exec_tevExtended hx :)
  | illegal c why hm he hd ht => exact ht ▸ .of_tev_eq rfl
  | rx hm he hx => exact .of_tev_eq (rxStep_tev hx)
  | own hm ho he hx => exact .of_tev_eq (ownStep_tev hx)
  | read hm hr he hx => exact .of_tev_eq (readStep_tev hx)
  | conn hm hx => exact .of_tev_eq (connDone_tev hx)
  | seq answer d hm he hx => exact seqStep_tevExtended he hx
  | cancel hm he ht => exact ht ▸ tevExtended_enterClosed _ _
  | tmr hm he hx => exact .of_tev_eq (tmrStep_tev he hx)

/-- Settles O26: every step extends the transport history, and the wire with it. -/
theorem atMostOneWritePerStep : Obligations.AtMostOneWritePerStep := by
  intro s t hstep
  have hext : TevExtended s t := step_tevExtended hstep
  have ⟨es, htev, hone⟩ := hext
  exact ⟨es, htev, hone, hext.wire_extended⟩

end Sys2Proof.Machine

/-! The typed writes (43_typed_write.md R200 to R209): the bytes of each write's operands, then what a write does with
the result of its operand check in READY and in CLOSED. -/

namespace Sys2Proof.Machine

/-! ### The bytes of a word (R201, R203, R204) -/

theorem trunc8_eq_extractLsb' (w : Word) : trunc8 w = w.extractLsb' 0 8 := BitVec.setWidth_eq_extractLsb' (by decide)

theorem splitBytes_trunc16 (w : Word) : splitBytes (trunc16 w) = [w.extractLsb' 8 8, w.extractLsb' 0 8] := by
  rw [splitBytes, trunc16, BitVec.extractLsb'_setWidth_of_le (by decide), BitVec.extractLsb'_setWidth_of_le (by decide)]

/-- The two bytes are the halves of the word's low 16 bits, high byte first (20_memory.md R52). -/
theorem joinBytes_extractLsb' (w : Word) : joinBytes (w.extractLsb' 8 8) (w.extractLsb' 0 8) = trunc16 w :=
  (BitVec.extractLsb'_append_extractLsb'_eq_extractLsb' rfl).trans (BitVec.setWidth_eq_extractLsb' (by decide)).symm

/-- In WRS16's range no bit of the operand is lost. -/
theorem sextHalf_trunc16 {w : Word} (hlo : -32768 ≤ w.toInt) (hhi : w.toInt ≤ 32767) : sextHalf (trunc16 w) = w := by
  apply BitVec.eq_of_toInt_eq
  rw [sextHalf, BitVec.toInt_signExtend_of_le (by decide), trunc16, BitVec.toInt_setWidth,
    ← Int.bmod_bmod_of_dvd (m := 2 ^ 32) (by decide), ← BitVec.toInt_eq_toNat_bmod]
  exact Int.bmod_eq_of_le hlo (by omega)

/-- In WRU16's range no bit of the operand is lost. -/
theorem zextHalf_trunc16 {w : Word} (hlo : 0 ≤ w.toInt) (hhi : w.toInt ≤ 65535) : zextHalf (trunc16 w) = w := by
  have hlow : w.toNat < 65536 := by
    rw [BitVec.toInt_eq_toNat_cond] at hlo hhi
    omega
  apply BitVec.eq_of_toNat_eq
  rw [zextHalf, BitVec.toNat_setWidth_of_le (by decide), trunc16, BitVec.toNat_setWidth, Nat.mod_eq_of_lt hlow]

/-! ### The operand checks -/

/-- A word write whose operand is in its range sends the operand's two low bytes, high byte first (R203, R204). -/
theorem writeCheck_word {i : Instr} {s : State}
    (h : (i = .wrs16 ∧ -32768 ≤ s.cur.arg.toInt ∧ s.cur.arg.toInt ≤ 32767) ∨
      (i = .wru16 ∧ 0 ≤ s.cur.arg.toInt ∧ s.cur.arg.toInt ≤ 65535)) :
    s.writeCheck i = some (.send [s.cur.arg.extractLsb' 8 8, s.cur.arg.extractLsb' 0 8]) := by
  rw [← splitBytes_trunc16]
  rcases h with ⟨rfl, hlo, hhi⟩ | ⟨rfl, hlo, hhi⟩
  · exact congrArg some (if_neg (by omega))
  · exact congrArg some (if_neg (by omega))

theorem checkWrs16_refuse {w : Word} (h : w.toInt < -32768 ∨ 32767 < w.toInt) : checkWrs16 w = .refuse := if_pos h

theorem checkWru16_refuse {w : Word} (h : w.toInt < 0 ∨ 65535 < w.toInt) : checkWru16 w = .refuse := if_pos h

theorem checkWrbs_invalid {maxCmd len : Nat} {w : Word} {values : List Word}
    (h : maxCmd < len ∨ w.toInt < 0 ∨ (values.length : Int) < w.toInt + len) :
    checkWrbs maxCmd len w values = .invalid := by
  rw [checkWrbs]
  split_ifs with hlen hslice
  · rfl
  · rfl
  · exact absurd (h.resolve_left hlen) hslice

theorem checkWrbs_send {maxCmd len start : Nat} {w : Word} {values : List Word} (hlen : len ≤ maxCmd)
    (hstart : w.toInt = start) (hslice : start + len ≤ values.length) :
    checkWrbs maxCmd len w values = .send (sliceBytes start len values) := by
  rw [checkWrbs, if_neg (by omega), if_neg (by omega), hstart, Int.toNat_natCast]

theorem sliceBytes_length {start len : Nat} {values : List Word} (h : start + len ≤ values.length) :
    (sliceBytes start len values).length = len := by
  rw [sliceBytes, List.length_map, List.length_take, List.length_drop]
  omega

theorem sliceBytes_getElem? {len j : Nat} (start : Nat) (values : List Word) (hj : j < len) :
    (sliceBytes start len values)[j]? = (values[start + j]?).map fun v => v.extractLsb' 0 8 := by
  rw [sliceBytes, List.getElem?_map, List.getElem?_take_of_lt hj, List.getElem?_drop, funext trunc8_eq_extractLsb']

/-! ### What a write does with the result of its check (R200) -/

section TypedWrite

variable {s : State}

theorem typedWrite_invalid (hl : s.link = .ready ∨ s.link = .closed) :
    s.typedWrite .invalid = s.raise s.cur.agent .invalidArgument := by
  simp [State.typedWrite, (typedAllowed_iff s).2 hl]

/-- A range violation is refused in every link state. -/
theorem typedWrite_out_of_range : s.typedWrite .refuse = s.refuse := by
  simp [State.typedWrite]

theorem typedWrite_send_closed (bs : List Byte) (hl : s.link = .closed) :
    s.typedWrite (.send bs) = s.raise s.cur.agent .channelClosed := by
  simp [State.typedWrite, (typedAllowed_iff s).2 (.inr hl), hl]

theorem typedWrite_send_ready (bs : List Byte) (hl : s.link = .ready) : s.typedWrite (.send bs) = s.sendBytes bs := by
  simp [State.typedWrite, (typedAllowed_iff s).2 (.inl hl), hl]

theorem sendBytes_nil : s.sendBytes [] = s.complete s.cur.agent 0#32 := if_pos rfl

theorem sendBytes_ok {bs : List Byte} (hb : bs ≠ []) (hd : s.cur.draw = .ok) :
    s.sendBytes bs = (s.txWrite bs .ok).complete s.cur.agent (countVal bs.length) := by
  rw [State.sendBytes, if_neg hb, hd]

theorem sendBytes_fail {bs : List Byte} {k : Nat} (hb : bs ≠ []) (hd : s.cur.draw = .fail k) :
    s.sendBytes bs = (s.txWrite bs (.fail k)).raise s.cur.agent .transportIo := by
  rw [State.sendBytes, if_neg hb, hd]

/-- In READY a write whose call succeeds sends all its bytes in that one call and answers their number. -/
theorem exec_write_sends {i : Instr} {bs : List Byte} (hi : s.writeCheck i = some (.send bs)) (hl : s.link = .ready)
    (hd : s.cur.draw = .ok) (hb : bs ≠ []) :
    ∃ t, exec i s = .next t ∧
      t = { s with
            scratch := t.scratch
            tev := s.tev ++ [TEvent.write bs bs.length]
            rsps := s.rsps ++ [(s.cur.agent, { st := .ok, val := BitVec.ofNat 32 bs.length })] } := by
  rw [exec_typedWrite hi, typedWrite_send_ready bs hl, sendBytes_ok hb hd]
  exact ⟨_, rfl, rfl⟩

/-- In READY a write of no byte makes no call. -/
theorem exec_write_nothing {i : Instr} (hi : s.writeCheck i = some (.send [])) (hl : s.link = .ready) :
    exec i s = .next (s.complete s.cur.agent 0#32) := by
  rw [exec_typedWrite hi, typedWrite_send_ready [] hl, sendBytes_nil]

end TypedWrite

/-! ### The obligations -/

/-- Settles O57: the check that fails decides, before the link state where it refuses. -/
theorem badWriteOperands : Obligations.BadWriteOperands := by
  refine ⟨fun s len hl hbad => ?_, fun s => ⟨fun hbad => ?_, fun hbad => ?_⟩⟩
  · rw [exec_typedWrite rfl, checkWrbs_invalid hbad, typedWrite_invalid hl]
    rfl
  · rw [exec_typedWrite rfl, checkWrs16_refuse hbad, typedWrite_out_of_range]
    rfl
  · rw [exec_typedWrite rfl, checkWru16_refuse hbad, typedWrite_out_of_range]
    rfl

/-- Settles O59: CLOSED is looked at once the check has passed, before any call. -/
theorem writeInClosedReportsClosed : Obligations.WriteInClosedReportsClosed := by
  intro i s bs hi hl
  rw [exec_typedWrite hi, typedWrite_send_closed bs hl]
  rfl

/-- Settles O58: the one call, of which the bytes HOST draws reach the wire. -/
theorem writeFailureReportsTransportIo : Obligations.WriteFailureReportsTransportIo := by
  intro i s bs k hi hl hd hk
  have hb : bs ≠ [] := List.ne_nil_of_length_pos (by omega)
  rw [exec_typedWrite hi, typedWrite_send_ready bs hl, sendBytes_fail hb hd]
  refine ⟨_, rfl, ?_⟩
  rw [← txWrite_fail_tev s hk]
  rfl

/-- Settles O55: one byte or two, sent by `exec_write_sends`. -/
theorem byteAndWordWritesSend : Obligations.ByteAndWordWritesSend := by
  intro s hl hd
  refine ⟨?_, fun i hrange => exec_write_sends (writeCheck_word hrange) hl hd (List.cons_ne_nil _ _)⟩
  have hi : s.writeCheck .wrb = some (.send [s.cur.arg.extractLsb' 0 8]) := by
    rw [← trunc8_eq_extractLsb']
    rfl
  exact exec_write_sends hi hl hd (List.cons_ne_nil _ _)

/-- Settles O56: the slice is empty exactly for LEN = 0. -/
theorem sliceWriteSends : Obligations.SliceWriteSends := by
  intro s len start hl hd hlen hstart hslice
  have hi : s.writeCheck (.wrbs len) = some (.send (sliceBytes start len s.cur.values)) :=
    congrArg some (checkWrbs_send hlen hstart hslice)
  have hlength := sliceBytes_length hslice
  have hbytes := fun j (hj : j < len) => sliceBytes_getElem? start s.cur.values hj
  by_cases hzero : len = 0
  · subst hzero
    exact ⟨_, _, exec_write_nothing hi hl, hlength, hbytes, fun h => absurd rfl h, fun _ => ⟨rfl, rfl⟩, rfl⟩
  · have hb : sliceBytes start len s.cur.values ≠ [] := List.ne_nil_of_length_pos (by omega)
    obtain ⟨t, hx, ht⟩ := exec_write_sends hi hl hd hb
    rw [hlength] at ht
    have htev : t.tev = s.tev ++ [TEvent.write (sliceBytes start len s.cur.values) len] := by rw [ht]
    refine ⟨t, _, hx, hlength, hbytes, fun _ => htev, fun h => absurd h hzero, ?_⟩
    rw [htev]
    exact ht

/-! ### Write, then read back (R209) -/

/-- The two bytes of a word write's operand in range have the operand as the value of the read that matches it. -/
theorem readValue_of_wordWrite {w r : Instr} {a : Word}
    (h : (w = .wrs16 ∧ r = .rds16 ∧ -32768 ≤ a.toInt ∧ a.toInt ≤ 32767) ∨
      (w = .wru16 ∧ r = .rdu16 ∧ 0 ≤ a.toInt ∧ a.toInt ≤ 65535)) :
    ∃ k, readKindOf r = some k ∧ readValue k none (a.extractLsb' 8 8) = none ∧
      readValue k (some (a.extractLsb' 8 8)) (a.extractLsb' 0 8) = some a := by
  rcases h with ⟨-, rfl, hlo, hhi⟩ | ⟨-, rfl, hlo, hhi⟩
  · refine ⟨.s16, rfl, rfl, ?_⟩
    rw [readValue, joinBytes_extractLsb', sextHalf_trunc16 hlo hhi]
  · refine ⟨.u16, rfl, rfl, ?_⟩
    rw [readValue, joinBytes_extractLsb', zextHalf_trunc16 hlo hhi]

/-- Settles O60: the write sends the operand's two bytes, and the read makes the operand of them again. -/
theorem wordWriteReadRoundTrip : Obligations.WordWriteReadRoundTrip := by
  intro v w r hrange s hl harg hd
  have hv : s.cur.arg.toInt = v := by
    rw [harg]
    exact BitVec.toInt_ofInt_eq_self (by decide) (by omega) (by omega)
  rw [← hv] at hrange ⊢
  obtain ⟨k, hr, hfirst, hlast⟩ := readValue_of_wordWrite hrange
  have hi := writeCheck_word (s := s) (hrange.imp (fun ⟨hw, _, h⟩ => ⟨hw, h⟩) fun ⟨hw, _, h⟩ => ⟨hw, h⟩)
  obtain ⟨t, hx, ht⟩ := exec_write_sends hi hl hd (List.cons_ne_nil _ _)
  refine ⟨t, _, hx, congrArg State.tev ht, fun x q hinv hxl hrd hq => ?_⟩
  obtain ⟨x₁, x₂, x₃, h₁, h₂, h₃, -, -, hqueue, hx₃⟩ :=
    read_completes_with_word hr (.inl hxl) hrd hfirst hlast hinv hq
  exact ⟨x₁, x₂, x₃, s.cur.arg, h₁, h₂, h₃, congrArg State.rsps hx₃, rfl, hqueue⟩

end Sys2Proof.Machine

/-! No step stops the block (60_exceptions.md R220, R228). The only other answer a step gives is a storage fault,
from a read of an unwritten byte or an access outside the ring, and the FIFO invariant shuts out both. First the
commands and the agents' steps, then the step. -/

namespace Sys2Proof.Machine

/-- A POP has three answers once a storage fault is shut out (40_fifo_ops.md R117). -/
theorem FifoInv.fifoPop_cases {s : State} (hinv : FifoInv s) :
    (∃ b u, s.fifoPop = .byte b u) ∨ s.fifoPop = .closed ∨ s.fifoPop = .empty := by
  cases hp : s.fifoPop with
  | byte b u => exact .inl ⟨b, u, rfl⟩
  | closed => exact .inr (.inl rfl)
  | empty => exact .inr (.inr rfl)
  | fault f => exact absurd hp (fifoPop_no_fault hinv f)

/-! ### The commands -/

theorem exec_push_answers_next (d : Byte) (s : State) : ∃ t, exec (.push d) s = .next t := by
  by_cases hrx : s.rx.isSome = true
  · exact ⟨_, exec_push_busy hrx d⟩
  · exact ⟨_, exec_push_idle (by simpa using hrx) d⟩

theorem exec_pushm_answers_next (n : Nat) (s : State) : ∃ t, exec (.pushm n) s = .next t := by
  by_cases hrx : s.rx.isSome = true
  · exact ⟨_, exec_pushm_busy hrx n⟩
  · have hidle : s.rx = none := by simpa using hrx
    by_cases hn : s.cur.burst.length = n
    · exact ⟨_, exec_pushm_idle hidle hn⟩
    · exact ⟨_, exec_pushm_mismatch hidle hn⟩

theorem exec_pop_answers_next {s : State} (hinv : FifoInv s) : ∃ t, exec .pop s = .next t := by
  rcases hinv.fifoPop_cases with ⟨b, u, hp⟩ | hp | hp <;> simp [exec, execPop, hp]

theorem exec_connect_answers_next (s : State) : ∃ t, exec .connect s = .next t := by
  cases hl : s.link with
  | unopened => exact ⟨_, exec_connect_unopened hl⟩
  | ready => exact ⟨_, exec_connect_ready hl⟩
  | opening => exact ⟨_, exec_connect_refused (.inl hl)⟩
  | handshaking => exact ⟨_, exec_connect_refused (.inr (.inl hl))⟩
  | closed => exact ⟨_, exec_connect_refused (.inr (.inr hl))⟩

theorem exec_close_answers_next (s : State) : ∃ t, exec .close s = .next t := by
  cases hl : s.link with
  | unopened => exact ⟨_, exec_close_quiet (.inl hl)⟩
  | ready => exact ⟨_, exec_close_quiet (.inr hl)⟩
  | opening => exact ⟨_, exec_close_connecting (.inl hl)⟩
  | handshaking => exact ⟨_, exec_close_connecting (.inr hl)⟩
  | closed => exact ⟨_, exec_close_closed hl⟩

theorem exec_cancel_answers_next (s : State) : ∃ t, exec .cancel s = .next t := by
  cases hc : s.connecting with
  | true => exact ⟨_, exec_cancel_connecting hc⟩
  | false => exact ⟨_, exec_cancel_quiet hc⟩

/-- An error of a command is a response and a refusal is a mark, so only POP needs the invariant. -/
theorem exec_answers_next {s : State} (hinv : FifoInv s) (i : Instr) : ∃ t, exec i s = .next t := by
  cases i with
  | push d => exact exec_push_answers_next d s
  | pushm n => exact exec_pushm_answers_next n s
  | pop => exact exec_pop_answers_next hinv
  | fclose => exact ⟨_, rfl⟩
  | connect => exact exec_connect_answers_next s
  | close => exact exec_close_answers_next s
  | cancel => exact exec_cancel_answers_next s
  | rds8 | rdu8 | rds16 | rdu16 => exact ⟨_, exec_typedRead rfl s⟩
  | wrb | wrbs | wrs16 | wru16 => exact ⟨_, exec_typedWrite rfl⟩

/-! ### The agents' steps -/

theorem rxStep_answers_next {s : State} (hinv : FifoInv s) : ∃ t, rxStep s = .next t := by
  cases hrx : s.rx with
  | none => simp [rxStep, hrx]
  | some r =>
    obtain ⟨rem, acc, st⟩ := r
    cases rem with
    | nil => simp [rxStep, hrx]
    | cons b bs =>
      cases hp : s.push1 with
      | accept => exact ⟨_, rxStep_of_accept hrx hinv hp⟩
      | dropped => exact ⟨_, rxStep_of_dropped hrx hp⟩
      | rejectClosed => exact ⟨_, rxStep_of_rejectClosed hrx hp⟩
      | hold => simp [rxStep, hrx, hp]

theorem ownStep_answers_next {s : State} (hinv : FifoInv s) : ∃ t, ownStep s = .next t := by
  cases ho : s.ownPop with
  | none => simp [ownStep, ho]
  | some a => rcases hinv.fifoPop_cases with ⟨b, u, hp⟩ | hp | hp <;> simp [ownStep, ho, hp]

theorem readStep_answers_next {s : State} (hinv : FifoInv s) : ∃ t, readStep s = .next t := by
  cases hrd : s.rd with
  | none => simp [readStep, hrd]
  | some r =>
    rcases hinv.fifoPop_cases with ⟨b, u, hp⟩ | hp | hp
    · cases hv : readValue r.kind r.hi b <;> simp [readStep, hrd, hp, hv]
    · simp [readStep, hrd, hp]
    · simp [readStep, hrd, hp]

theorem connDone_answers_next (s : State) : ∃ t, connDone s = .next t := by
  cases ha : s.connCaller with
  | none => simp [connDone, ha]
  | some a =>
    cases hr : s.connResult with
    | none => simp [connDone, ha, hr]
    | some r => exact ⟨_, connDone_posted ha hr⟩

theorem readModeStep_answers_next {s : State} (hinv : FifoInv s) : ∃ t, s.readModeStep = .next t := by
  rcases hinv.fifoPop_cases with ⟨b, u, hp⟩ | hp | hp <;> simp [State.readModeStep, hp]

theorem seqStep_answers_next {s : State} (hinv : FifoInv s) (answer : Bool) (d : WriteDraw) :
    ∃ t, seqStep answer d s = .next t := by
  cases hp : s.phase with
  | openPort => exact ⟨_, seqStep_openPort answer d hp⟩
  | sendStart => exact ⟨_, seqStep_sendStart answer d hp⟩
  | sendQuery => exact ⟨_, seqStep_sendQuery answer d hp⟩
  | readMode => simpa [seqStep, hp] using readModeStep_answers_next hinv
  | idle | delay | cooldown => simp [seqStep, hp]

theorem tmrStep_answers_next (s : State) : ∃ t, tmrStep s = .next t := by
  cases ht : s.tmr with
  | none => simp [tmrStep, ht]
  | some k =>
    cases k with
    | poll => exact ⟨_, tmrStep_poll ht⟩
    | cooldown => exact ⟨_, tmrStep_cooldown ht⟩

/-! ### The step -/

/-- A command the agent may present: a legal word runs, an illegal word is answered (30_encoding.md R85, R86). -/
theorem step_issue_answers_next {s : State} {c : Cmd} (hinv : FifoInv s) (hm : s.nextMove = .issue c)
    (he : s.advance.canIssue c = true) : ∃ t, step s = .next t := by
  cases hd : decode c.agent.port c.cw with
  | command i =>
    have hpres : FifoInv (s.advance.present c) := hinv.of_fifoView rfl
    rw [step_issue hm he hd]
    exact exec_answers_next hpres i
  | illegal why => exact ⟨_, step_illegal hm he hd⟩

/-- Settles O23: a move that is not enabled is a hold; an enabled one is a command or its agent's own step, and each of
these answers a next state. -/
theorem stepNeverStops : Obligations.StepNeverStops := by
  intro s hinv
  have hadv : FifoInv s.advance := hinv.of_fifoView rfl
  by_cases he : s.advance.enabled s.nextMove = true
  · obtain ⟨-, hagents⟩ := stepRunsDecodedCommand
    obtain ⟨hrx, hown, hread, hconn, hseq, hcancel, htmr⟩ := hagents s he
    cases hm : s.nextMove with
    | issue c => exact step_issue_answers_next hinv hm (by rwa [hm] at he)
    | rxStep => exact hrx hm ▸ rxStep_answers_next hadv
    | ownStep => exact hown hm ▸ ownStep_answers_next hadv
    | readStep => exact hread hm ▸ readStep_answers_next hadv
    | connDone => exact hconn hm ▸ connDone_answers_next s.advance
    | seqStep answer d => exact hseq answer d hm ▸ seqStep_answers_next hadv answer d
    | cancelStep => exact ⟨_, hcancel hm⟩
    | tmrStep => exact htmr hm ▸ tmrStep_answers_next s.advance
  · exact ⟨_, step_hold (by simpa using he)⟩

end Sys2Proof.Machine

/-! The state after reset (70_reset_and_hazards.md R260): what the checks on the parameters say, the value of every
element, and the invariants. -/

namespace Sys2Proof.Machine

/-! ### Legal parameters (00_scope.md R6) -/

theorem params_wf_iff (p : Params) :
    p.wf = true ↔
      p.depth ≠ 0#16 ∧ p.nApp ≠ 0 ∧ p.maxAttempts ≠ 0#2 ∧ p.maxCmd.toNat ≤ p.scratchSize ∧ 2 ≤ p.scratchSize := by
  simp [Params.wf, and_assoc]

theorem depth_pos_of_wf {p : Params} (h : p.wf = true) : 0 < p.depth.toNat := by
  obtain ⟨hdepth, -⟩ := (params_wf_iff p).1 h
  exact Nat.pos_of_ne_zero (BitVec.toNat_ne.1 hdepth)

theorem maxAttempts_pos_of_wf {p : Params} (h : p.wf = true) : 0 < p.maxAttempts.toNat := by
  obtain ⟨-, -, hattempts, -⟩ := (params_wf_iff p).1 h
  exact Nat.pos_of_ne_zero (BitVec.toNat_ne.1 hattempts)

/-! ### The values of the elements -/

section Values

variable (p : Params) (debug : Bool)

@[simp] theorem resetWith_cfg : (State.resetWith p debug).cfg = p := rfl
@[simp] theorem resetWith_fclosed : (State.resetWith p debug).fclosed = false := rfl
@[simp] theorem resetWith_phase : (State.resetWith p debug).phase = .idle := rfl
@[simp] theorem resetWith_link : (State.resetWith p debug).link = .unopened := rfl
@[simp] theorem resetWith_handle : (State.resetWith p debug).handle = false := rfl
@[simp] theorem resetWith_cancelReq : (State.resetWith p debug).cancelReq = false := rfl
@[simp] theorem resetWith_connCaller : (State.resetWith p debug).connCaller = none := rfl
@[simp] theorem resetWith_connResult : (State.resetWith p debug).connResult = none := rfl
@[simp] theorem resetWith_rd : (State.resetWith p debug).rd = none := rfl
@[simp] theorem resetWith_rx : (State.resetWith p debug).rx = none := rfl
@[simp] theorem resetWith_tmr : (State.resetWith p debug).tmr = none := rfl

@[simp] theorem resetWith_scratch_length : (State.resetWith p debug).scratch.length = p.scratchSize :=
  List.length_replicate

@[simp] theorem resetWith_connecting : (State.resetWith p debug).connecting = false := rfl

/-- Nothing has written a byte of storage (10_state.md R24). -/
theorem resetWith_mem_read (a : Nat) : (State.resetWith p debug).mem.read a = none := rfl

/-- All agents are idle (10_state.md R34). -/
theorem resetWith_isHeld (a : Issuer) : (State.resetWith p debug).isHeld a = false := by
  rw [Bool.eq_false_iff, ne_eq, isHeld_iff]
  simp

/-- In the whole block RX presents nothing while the handle is absent (60_exceptions.md R231). -/
theorem resetWith_not_enabled_issue_rx {c : Cmd} (hwhole : p.standalone = false) (hrx : c.agent = .rx) :
    (State.resetWith p debug).enabled (.issue c) = false := by
  simp [enabled_issue_rx _ hrx, hwhole]

end Values

/-! ### CONFIG with the default MAX_ATTEMPTS and MAX_CMD (10_state.md R31) -/

/-- A word of two halves, put together by a shift. -/
theorem half_append_half (hi lo : Half) : (hi ++ lo : Word) = hi.setWidth 32 <<< 16 ||| lo.setWidth 32 := by
  rw [BitVec.append_def, BitVec.shiftLeftZeroExtend_eq, BitVec.setWidth'_eq]

/-- The high half of CONFIG holds the constants and the policy, the low half the capacity. -/
theorem configWord_of_defaults {s : State} (hattempts : s.cfg.maxAttempts = 2#2) (hcmd : s.cfg.maxCmd = 26#5) :
    s.configWord =
      0x00B40000#32 ||| (BitVec.setWidth 32 (policyCode s.cfg.policy) <<< 16) ||| s.cfg.depth.setWidth 32 := by
  rw [State.configWord, hattempts, hcmd, half_append_half]
  cases s.cfg.policy with
  | block => rfl
  | drop => rfl

/-- Settles O27: each element by its value at reset, STATUS and CONFIG by their words, and the defaults of the named
constants by evaluation. -/
theorem resetValues : Obligations.ResetValues := by
  refine ⟨fun p debug hwf => ?_, fun depth policy nApp baud alone => ?_⟩
  · exact ⟨rfl, rfl, rfl, resetWith_mem_read p debug, rfl, rfl, rfl, rfl, rfl, rfl, rfl, rfl, rfl, rfl, rfl, rfl, rfl,
      rfl, rfl, resetWith_isHeld p debug, rfl, rfl, rfl, resetWith_statusWord hwf debug,
      configWord_of_defaults (s := State.resetWith p debug),
      fun hwhole _ hrx => resetWith_not_enabled_issue_rx p debug hwhole hrx⟩
  · exact ⟨rfl, rfl, rfl, rfl, rfl, rfl, rfl, rfl, rfl⟩

/-! ### The invariants -/

section Invariants

variable {p : Params} (hwf : p.wf = true) (debug : Bool)

include hwf

/-- The ring is empty at index 0, which a capacity of at least one byte has (10_state.md R26). -/
theorem resetWith_fifoInv : FifoInv (State.resetWith p debug) where
  depth_pos := depth_pos_of_wf hwf
  count_le := Nat.zero_le _
  head_lt := depth_pos_of_wf hwf
  tail_eq := (Nat.zero_mod _).symm
  mem_wf := List.Pairwise.nil
  mem_bound := fun _ hc => absurd hc List.not_mem_nil
  queue_length := rfl

/-- UNOPENED with SEQ idle is a legal pair; no connect, result or read is pending (10_state.md R23, R29). -/
theorem resetWith_linkInv : LinkInv (State.resetWith p debug) where
  pair := by simp [legalPairs]
  tmr_poll := by simp
  tmr_cooldown := by simp
  handle := by simp
  cancel := by simp
  attempts_pos := maxAttempts_pos_of_wf hwf
  attempt_le := Nat.zero_le _
  attempt_pos := by simp
  attempt_cooldown := by simp
  caller := by simp
  result := by simp
  result_ready := by simp
  result_closed := by simp
  unopened := fun _ => ⟨rfl, rfl, rfl⟩
  read := by simp

end Invariants

theorem resetWith_fifoOrder (p : Params) (debug : Bool) : FifoOrder (State.resetWith p debug) := rfl

theorem resetWith_arrivalInv (p : Params) (debug : Bool) : ArrivalInv (State.resetWith p debug) where
  order := List.Sublist.slnil
  complete := fun _ _ => rfl

/-- No burst is in flight, and the scratch area has its size (10_state.md R28, R29, R33). -/
theorem resetWith_burstInv (p : Params) (debug : Bool) : BurstInv (State.resetWith p debug) where
  rem_ne := by simp
  bound := by simp
  open_st := by simp
  overflow := by simp
  ovf_block := fun _ => rfl
  scratch_length := resetWith_scratch_length p debug

/-- The FIFO is open and the link not CLOSED, and no agent is held (60_exceptions.md R233). -/
theorem resetWith_roleInv (p : Params) (debug : Bool) : RoleInv (State.resetWith p debug) where
  closed_iff := by simp
  own_none := fun _ => rfl
  standalone := fun _ => ⟨rfl, rfl⟩
  caller_app := by simp
  reader_app := by simp

/-- Settles O22: one lemma for each invariant. The FIFO's needs a capacity of at least one byte, the Link Controller's
at least one attempt. -/
theorem resetIsSafe : Obligations.ResetIsSafe := fun p debug hwf =>
  { fifo := resetWith_fifoInv hwf debug
    order := resetWith_fifoOrder p debug
    arrival := resetWith_arrivalInv p debug
    burst := resetWith_burstInv p debug
    link := resetWith_linkInv hwf debug
    role := resetWith_roleInv p debug }

end Sys2Proof.Machine
